-- ==== Sys2Proof/Word.lean ====
section
/-! DEFINITION. The words of the engine: W-bit values, port transaction words, register indices and opcodes
(00_scope.md R5, R7; 20_memory.md R60; 30_encoding.md R80, R81). -/

namespace Sys2Proof

/-- A W-bit value: an unsigned integer in `[0, 2^W)` (00_scope.md R7). `+`, `-` and `*` on it are the
datapath operators `+w`, `-w` and `*w` of 00_scope.md R8, each taken modulo `2^W`. -/
abbrev Word (w : Nat) : Type := BitVec w

/-- A port transaction: W+5 bits, `we` above `idx` above `wdata` (30_encoding.md R80). -/
abbrev PortWord (w : Nat) : Type := BitVec (w + 5)

/-- A register index of the port, 4 bits (20_memory.md R60). -/
abbrev RegIndex : Type := BitVec 4

/-- The opcode field of a command word, 8 bits (30_encoding.md R81). -/
abbrev Opcode : Type := BitVec 8

end Sys2Proof
end

