-- ==== Sys2Proof/Config.lean ====
section
/-! DEFINITION. What an implementation fixes: the word width W (00_scope.md R5, R6). The other parameters of
R6 have no definition here: the latencies are the place of a completion in the stream of steps
(Machine/State.lean, log 2), NREG is the type `Reg`, SAFE_N_LIMIT is `safeNLimit` (Machine/Flags.lean), and
PORT_TIMING and BUS_BINDING are out of scope (00_scope.md R4, R6; log 17). -/

namespace Sys2Proof

/-- The four widths a build may have (00_scope.md R5, 92_eei_decisions.md D2). -/
inductive Width where
  | w16
  | w32
  | w64
  | w128
deriving DecidableEq, Repr

/-- W, in bits (00_scope.md R5). -/
def Width.bits : Width → Nat
  | .w16 => 16
  | .w32 => 32
  | .w64 => 64
  | .w128 => 128

/-- "the default is 64" (00_scope.md R5). -/
def Width.default : Width := .w64

end Sys2Proof
end

