-- ==== Sys2Proof/Syntax.lean ====
section
/-! DEFINITION. The instructions: the four commands and the two port transactions (00_scope.md R2,
30_encoding.md R80 to R83), one constructor of `Instr` for each row of spec/opcode_table.json, with the names
of the registers, the commands and the rejection causes. -/

namespace Sys2Proof

/-- The 16 register indices of the port (10_state.md R21), in index order. -/
inductive Reg where
  | cmd
  | status
  | n
  | a
  | b
  | result
  | cfgN
  | r
  | x
  | nprime
  | r2
  | params
  | reserved12
  | reserved13
  | reserved14
  | reserved15
deriving DecidableEq, Repr

/-- The four commands of the opcode map (30_encoding.md R83). -/
inductive Command where
  | nop
  | config
  | mul
  | redc
deriving DecidableEq, Repr

/-- The causes of a command rejection (60_exceptions.md R201). -/
inductive CmdError where
  /-- CMD written while STATUS.BUSY = 1 (60_exceptions.md R202). -/
  | busy
  /-- CMD value with bits W-1:8 not all 0 (60_exceptions.md R203). -/
  | reservedBits
  /-- Opcode 0x04 to 0xFF (60_exceptions.md R204). -/
  | illegalOpcode
  /-- MUL or REDC while STATUS.CFG_VALID = 0 (60_exceptions.md R205). -/
  | notConfigured
deriving DecidableEq, Repr

/-- The instructions: a command of format CMD, or a transaction of format PORT. -/
inductive Instr where
  /-- NOP (40_host_port.md R104). -/
  | nop
  /-- CONFIG (41_configure.md R134). -/
  | config
  /-- MUL (43_multiply.md R181). -/
  | mul
  /-- REDC (42_redc.md R162). -/
  | redc
  /-- PORT_READ of a register (40_host_port.md R100). The transaction's `wdata` bits are ignored and are no
  operand (30_encoding.md R80; log 12). -/
  | portRead (reg : Reg)
  /-- PORT_WRITE of `wdata` to a register (40_host_port.md R101). `wdata` is the number in the W-bit data
  field, below `2^W` (WellFormed.lean; log 13). -/
  | portWrite (reg : Reg) (wdata : Nat)
deriving DecidableEq, Repr

/-- The instruction that a command of the opcode map is. -/
def Command.toInstr : Command → Instr
  | .nop => .nop
  | .config => .config
  | .mul => .mul
  | .redc => .redc

end Sys2Proof
end

