-- ==== Sys2Proof/WellFormed.lean ====
section
/-! DEFINITION. Which instructions the encodings of a build of width W can carry. -/

namespace Sys2Proof

/-- The one check there is: the data of a PORT_WRITE fits the W-bit field (30_encoding.md R80, R86: a value "of
at most W bits"). Every register index is defined (20_memory.md R60) and commands have no operand fields
(30_encoding.md R82). -/
def Instr.wellFormed (w : Width) : Instr → Bool
  | .nop => true
  | .config => true
  | .mul => true
  | .redc => true
  | .portRead _ => true
  | .portWrite _ wdata => decide (wdata < 2 ^ w.bits)

end Sys2Proof
end

