-- ==== Sys2Proof/Decode.lean ====
section
/-! DEFINITION. Decoding of the two formats, and after it the encoder (30_encoding.md R80 to R85). Format PORT
decodes every word to a transaction; format CMD decodes every word to a command or to the name of the cause
that rejects it. -/

namespace Sys2Proof

/-- The register an index names (10_state.md R21). -/
def Reg.ofIndex (i : RegIndex) : Reg :=
  match i.toNat with
  | 0 => .cmd
  | 1 => .status
  | 2 => .n
  | 3 => .a
  | 4 => .b
  | 5 => .result
  | 6 => .cfgN
  | 7 => .r
  | 8 => .x
  | 9 => .nprime
  | 10 => .r2
  | 11 => .params
  | 12 => .reserved12
  | 13 => .reserved13
  | 14 => .reserved14
  | _ => .reserved15

/-- Format PORT (30_encoding.md R80): `we` is bit W+4, `idx` bits W+3:W, `wdata` bits W-1:0. No PORT encoding
is illegal, so this never refuses. -/
def decodePort {w : Nat} (t : PortWord w) : Instr :=
  let idx : RegIndex := t.extractLsb' w 4
  let wdata : Word w := t.setWidth w
  if t.getLsbD (w + 4) then .portWrite (Reg.ofIndex idx) wdata.toNat else .portRead (Reg.ofIndex idx)

/-- The opcode map (30_encoding.md R83); `none` for 0x04 to 0xFF. -/
def Command.ofOpcode (op : Opcode) : Option Command :=
  match op.toNat with
  | 0x00 => some .nop
  | 0x01 => some .config
  | 0x02 => some .mul
  | 0x03 => some .redc
  | _ => none

/-- Format CMD (30_encoding.md R81, R84, R85): the reserved bits W-1:8 are looked at before the opcode. -/
def decodeCmd {w : Nat} (v : Word w) : Except CmdError Command :=
  if v >>> 8 ≠ 0 then .error .reservedBits
  else
    match Command.ofOpcode (v.setWidth 8) with
    | some c => .ok c
    | none => .error .illegalOpcode

/-- The build whose command words have `nbits` bits (30_encoding.md R81). 8 bits are the opcode field alone, with the
reserved bits 0: they read alike in every build, and the default one stands for all (log 15). -/
def cmdFormat (nbits : Nat) : Option Width :=
  match nbits with
  | 8 => some Width.default
  | 16 => some .w16
  | 32 => some .w32
  | 64 => some .w64
  | 128 => some .w128
  | _ => none

/-- The build whose port transactions have `nbits` bits, W+5 or the whole bytes that hold them
(30_encoding.md R80). -/
def portFormat (nbits : Nat) : Option Width :=
  match nbits with
  | 21 => some .w16
  | 24 => some .w16
  | 37 => some .w32
  | 40 => some .w32
  | 69 => some .w64
  | 72 => some .w64
  | 133 => some .w128
  | 136 => some .w128
  | _ => none

/-- The instruction read from an opcode-table word of `nbits` bits. The lengths W and W+5 tell the format and
the build apart (log 15); a number with a bit set above its format's length is no word of it. -/
def decodeTableWord (nbits w : Nat) : Option Instr :=
  match cmdFormat nbits with
  | some k =>
    if w < 2 ^ nbits then
      match decodeCmd (BitVec.ofNat k.bits w) with
      | .ok c => some c.toInstr
      | .error _ => none
    else none
  | none =>
    match portFormat nbits with
    | some k => if w < 2 ^ (k.bits + 5) then some (decodePort (BitVec.ofNat (k.bits + 5) w)) else none
    | none => none

/-! ## The encoder -/

/-- The index of a register (10_state.md R21). -/
def Reg.index : Reg → RegIndex
  | .cmd => 0
  | .status => 1
  | .n => 2
  | .a => 3
  | .b => 4
  | .result => 5
  | .cfgN => 6
  | .r => 7
  | .x => 8
  | .nprime => 9
  | .r2 => 10
  | .params => 11
  | .reserved12 => 12
  | .reserved13 => 13
  | .reserved14 => 14
  | .reserved15 => 15

/-- The opcode of a command (30_encoding.md R83). -/
def Command.opcode : Command → Opcode
  | .nop => 0x00
  | .config => 0x01
  | .mul => 0x02
  | .redc => 0x03

/-- The command word of a command: its opcode, with the reserved bits 0 (30_encoding.md R81). -/
def Command.word (c : Command) (w : Nat) : Word w := c.opcode.setWidth w

/-- The number that a port transaction's fields make (30_encoding.md R80). -/
def portNumber (w : Nat) (we : Bool) (idx : RegIndex) (wdata : Nat) : Nat :=
  we.toNat * 2 ^ (w + 4) + idx.toNat * 2 ^ w + wdata

/-- An instruction's word as a number, with its length in bits. -/
structure Encoded where
  bits : Nat
  word : Nat
deriving DecidableEq, Repr

/-- The word of an instruction in a build of width `w`: a command as its command word, a transaction as its
port word. A PORT_READ carries `wdata = 0` (30_encoding.md R86). -/
def encode (w : Width) : Instr → Encoded
  | .nop => ⟨w.bits, (Command.nop.word w.bits).toNat⟩
  | .config => ⟨w.bits, (Command.config.word w.bits).toNat⟩
  | .mul => ⟨w.bits, (Command.mul.word w.bits).toNat⟩
  | .redc => ⟨w.bits, (Command.redc.word w.bits).toNat⟩
  | .portRead reg => ⟨w.bits + 5, portNumber w.bits false reg.index 0⟩
  | .portWrite reg wdata => ⟨w.bits + 5, portNumber w.bits true reg.index wdata⟩

/-- The port transaction by which a host issues an instruction: a transaction as it is, a command as the
PORT_WRITE of its word to CMD (30_encoding.md R83 and opcode_table.json: "issued_by"). -/
def portForm (w : Width) : Instr → PortWord w.bits
  | .nop => BitVec.ofNat (w.bits + 5) (portNumber w.bits true Reg.cmd.index (Command.nop.word w.bits).toNat)
  | .config => BitVec.ofNat (w.bits + 5) (portNumber w.bits true Reg.cmd.index (Command.config.word w.bits).toNat)
  | .mul => BitVec.ofNat (w.bits + 5) (portNumber w.bits true Reg.cmd.index (Command.mul.word w.bits).toNat)
  | .redc => BitVec.ofNat (w.bits + 5) (portNumber w.bits true Reg.cmd.index (Command.redc.word w.bits).toNat)
  | .portRead reg => BitVec.ofNat (w.bits + 5) (portNumber w.bits false reg.index 0)
  | .portWrite reg wdata => BitVec.ofNat (w.bits + 5) (portNumber w.bits true reg.index wdata)

end Sys2Proof
end

