-- ==== Sys2Proof/Machine/Datapath.lean ====
section
/-! DEFINITION. The datapath operators of 00_scope.md R8 that are not the plain modular `+`, `-`, `*` and
`&&&` of `Word`, and the set of constants that a reducer is (00_scope.md R12). -/

namespace Sys2Proof.Machine

/-- `shr(v, s)`: the logical right shift, 0 when `s ≥ W` (00_scope.md R8, D20). -/
def shr {w : Nat} (v : Word w) (s : Nat) : Word w :=
  if s < w then v >>> s else 0

/-- `remz(a, b)`: `a mod b`, and `a` when `b = 0` (00_scope.md R8, D19). -/
def remz {w : Nat} (a b : Word w) : Word w :=
  if b = 0 then a else a % b

/-- `wraps(a + b)`: the true sum is at least `2^W` (00_scope.md R8). -/
def wrapsAdd {w : Nat} (a b : Word w) : Bool :=
  decide (2 ^ w ≤ a.toNat + b.toNat)

/-- `wraps(a · b)`: the true product is at least `2^W` (00_scope.md R8). -/
def wrapsMul {w : Nat} (a b : Word w) : Bool :=
  decide (2 ^ w ≤ a.toNat * b.toNat)

/-- The reducer: the values of CFG_N, R, X, NPRIME and R2 (00_scope.md R12, 10_state.md R38 to R42). -/
structure Reducer (w : Nat) where
  cfgN : Word w
  r : Word w
  x : Word w
  nprime : Word w
  r2 : Word w
deriving DecidableEq, Repr

end Sys2Proof.Machine
end

