-- ==== Sys2Proof/Machine/State.lean ====
section
/-! DEFINITION. The state of the engine (10_state.md R20 to R48), of the agents around it (10_state.md R20,
20_memory.md R68, R74) and of its port's read data; the state after reset (70_reset_and_hazards.md R230);
and the reasons a step can stop. -/

namespace Sys2Proof.Machine

/-- The engine's phase (10_state.md R45). -/
inductive Phase where
  | idle
  | busy
deriving DecidableEq, Repr

/-- The hidden snapshot of the accepted command (10_state.md R46). `op` is held as the name of the command
whose 8-bit opcode was accepted, since R102 accepts no other opcode (log 10). -/
structure Snapshot (w : Nat) where
  op : Command
  n : Word w
  a : Word w
  b : Word w
deriving DecidableEq, Repr

/-- Who takes a step (10_state.md R20): one of the hosts, or the engine. -/
inductive Agent where
  | host (id : Nat)
  | engine
deriving DecidableEq, Repr

/-- One step of the total order of 20_memory.md R68: a host's port transaction, a completion step of the
engine (40_host_port.md R103), or the reset input (70_reset_and_hazards.md R230). -/
inductive Event (w : Nat) where
  | port (host : Nat) (word : PortWord w)
  | complete
  | reset
deriving DecidableEq, Repr

/-- The named one-bit fields of STATUS (10_state.md R23). -/
inductive Flag where
  | busy
  | done
  | cmdErr
  | cfgValid
  | modEven
  | modZero
  | rangeWarn
  | radixOvf
  | ovf
  | cfgOvf
deriving DecidableEq, Repr

/-- The engine in a build of `w`-bit words: the stored registers of 10_state.md R21 (`n` to `status`; CMD, PARAMS and
indices 12 to 15 have no storage), the phase (R45) and the snapshot (R46). -/
structure Engine (w : Nat) where
  n : Word w
  a : Word w
  b : Word w
  result : Word w
  cfgN : Word w
  r : Word w
  x : Word w
  nprime : Word w
  r2 : Word w
  status : Word w
  phase : Phase
  snap : Snapshot w
deriving DecidableEq, Repr

/-- The whole machine. `width` is the build's W, fixed (log 1), and `engine` all the state the spec gives it. The last
three fields are the model's own: `stream` holds the steps still to come, in order, with every choice the spec leaves
free already made in it (log 2); `agent` is who takes the present step (log 7); `reply` is the `rdata` that the last
enabled step returned, if that was a PORT_READ (log 8). -/
structure State where
  width : Width
  engine : Engine width.bits
  stream : List (Event width.bits)
  agent : Agent
  reply : Option (Word width.bits)
deriving DecidableEq, Repr

/-- The reasons a step can stop with a fault: none. "No behaviour of the engine stops it or traps"
(93_implementation_defined.md; 60_exceptions.md R200; log 19). -/
inductive Fault where
deriving DecidableEq, Repr

/-- The reasons a step can be refused. -/
inductive Refusal where
  /-- Raised by an arm of `exec` whose instruction has no meaning yet; no arm is one (log 19). Safe: the
  model stops where the engine goes on. -/
  | notModelled (mnemonic : String)
deriving DecidableEq, Repr

/-- The engine right after reset: every register and STATUS 0, phase IDLE (70_reset_and_hazards.md R230). The snapshot
is meaningless then and never read (10_state.md R46): its values are a DESIGN CHOICE (log 9). -/
def Engine.initial (w : Nat) : Engine w where
  n := 0
  a := 0
  b := 0
  result := 0
  cfgN := 0
  r := 0
  x := 0
  nprime := 0
  r2 := 0
  status := 0
  phase := .idle
  snap := { op := .nop, n := 0, a := 0, b := 0 }

/-- A build of width `w` right after reset, with the steps `stream` to come. The values of `agent` and `reply` are a
DESIGN CHOICE (logs 7, 8). -/
def State.initial (w : Width) (stream : List (Event w.bits)) : State where
  width := w
  engine := Engine.initial w.bits
  stream := stream
  agent := .host 0
  reply := none

/-- The machine right after reset (70_reset_and_hazards.md R230, R232), in the default build
(00_scope.md R5), before any host has issued anything (log 2). -/
def State.reset : State := State.initial Width.default []

end Sys2Proof.Machine
end

