-- ==== Sys2Proof/Machine/Flags.lean ====
section
/-! DEFINITION. STATUS: where its fields lie, how they are read and written (10_state.md R23), the error codes
(60_exceptions.md R201), and the condition flags that CONFIG computes (41_configure.md R133). -/

namespace Sys2Proof.Machine

/-- The bit of STATUS that holds a flag (10_state.md R23). -/
def Flag.pos : Flag → Nat
  | .busy => 0
  | .done => 1
  | .cmdErr => 2
  | .cfgValid => 3
  | .modEven => 4
  | .modZero => 5
  | .rangeWarn => 6
  | .radixOvf => 7
  | .ovf => 8
  | .cfgOvf => 9

/-- `v` with bit `i` replaced. -/
def writeBit {w : Nat} (v : Word w) (i : Nat) (b : Bool) : Word w :=
  (v &&& ~~~(BitVec.twoPow w i)) ||| (if b then BitVec.twoPow w i else 0)

/-- `v` with bits `i+3:i` replaced. -/
def writeNibble {w : Nat} (v : Word w) (i : Nat) (c : BitVec 4) : Word w :=
  (v &&& ~~~((BitVec.allOnes 4).setWidth w <<< i)) ||| (c.setWidth w <<< i)

/-- The lowest bit of ERRCODE, STATUS[15:12] (10_state.md R23). -/
def errcodePos : Nat := 12

/-- A one-bit field of a STATUS word. -/
def getFlag {w : Nat} (v : Word w) (f : Flag) : Bool := v.getLsbD f.pos

/-- A STATUS word with a one-bit field written: `STATUS.F <- b` (00_scope.md R9). -/
def putFlag {w : Nat} (v : Word w) (f : Flag) (b : Bool) : Word w := writeBit v f.pos b

/-- The ERRCODE field of a STATUS word (10_state.md R26). -/
def getErrcode {w : Nat} (v : Word w) : BitVec 4 := v.extractLsb' errcodePos 4

/-- A STATUS word with ERRCODE written (10_state.md R26). -/
def putErrcode {w : Nat} (v : Word w) (c : BitVec 4) : Word w := writeNibble v errcodePos c

/-- `STATUS.F` for a one-bit field (00_scope.md R9). -/
def Engine.flag {w : Nat} (e : Engine w) (f : Flag) : Bool := getFlag e.status f

/-- `STATUS.ERRCODE` (10_state.md R26). -/
def Engine.errcode {w : Nat} (e : Engine w) : BitVec 4 := getErrcode e.status

/-- The ERRCODE value of a cause (60_exceptions.md R201); 0 is NONE. -/
def errorCode : CmdError → BitVec 4
  | .busy => 1
  | .reservedBits => 2
  | .illegalOpcode => 3
  | .notConfigured => 4

/-- STATUS after a rejection (60_exceptions.md R207). -/
def rejectStatus {w : Nat} (v : Word w) (e : CmdError) : Word w :=
  putErrcode (putFlag v .cmdErr true) (errorCode e)

/-- STATUS after an acceptance (40_host_port.md R102). -/
def acceptStatus {w : Nat} (v : Word w) : Word w :=
  putErrcode (putFlag (putFlag (putFlag v .busy true) .done false) .cmdErr false) 0

/-- STATUS after the common completion (40_host_port.md R103). -/
def finishStatus {w : Nat} (v : Word w) : Word w :=
  putFlag (putFlag v .busy false) .done true

/-- SAFE_N_LIMIT = `2^(W/2 - 1)` (00_scope.md R6, 41_configure.md R133). -/
def safeNLimit (w : Nat) : Nat := 2 ^ (w / 2 - 1)

/-- The condition flags of a CONFIG (41_configure.md R133). -/
structure CfgFlags where
  modEven : Bool
  modZero : Bool
  rangeWarn : Bool
  radixOvf : Bool
  cfgOvf : Bool
deriving DecidableEq, Repr

/-- CFGFLAGS(n, x, sq_wrap) (41_configure.md R133). -/
def cfgFlags {w : Nat} (n : Word w) (x : Nat) (sqWrap : Bool) : CfgFlags where
  modEven := !n.getLsbD 0
  modZero := decide (n = 0)
  rangeWarn := decide (safeNLimit w ≤ n.toNat)
  radixOvf := decide (x = w)
  cfgOvf := decide (x = w) || sqWrap

/-- STATUS after CONFIG_COMPLETE has written the flags `f` (41_configure.md R134). -/
def configStatus {w : Nat} (v : Word w) (f : CfgFlags) : Word w :=
  let v := putFlag v .cfgValid true
  let v := putFlag v .modEven f.modEven
  let v := putFlag v .modZero f.modZero
  let v := putFlag v .rangeWarn f.rangeWarn
  let v := putFlag v .radixOvf f.radixOvf
  let v := putFlag v .cfgOvf f.cfgOvf
  putFlag v .ovf f.cfgOvf

end Sys2Proof.Machine
end

