-- ==== Sys2Proof/Machine/Operands.lean ====
section
/-! DEFINITION. The operand forms: the one addressing mode of the port, direct register index
(40_host_port.md R106), and the implicit operands of the commands (30_encoding.md R82). -/

namespace Sys2Proof.Machine

/-- What a PORT_READ of a register returns (40_host_port.md R100). -/
def Engine.readReg {w : Nat} (e : Engine w) : Reg → Word w
  | .cmd => 0
  | .status => e.status
  | .n => e.n
  | .a => e.a
  | .b => e.b
  | .result => e.result
  | .cfgN => e.cfgN
  | .r => e.r
  | .x => e.x
  | .nprime => e.nprime
  | .r2 => e.r2
  | .params => BitVec.ofNat w w
  | .reserved12 => 0
  | .reserved13 => 0
  | .reserved14 => 0
  | .reserved15 => 0

/-- What a PORT_WRITE stores (40_host_port.md R101): N, A and B take the value, every other index stores
nothing. A write to CMD stores nothing either (10_state.md R22); its request is `Engine.commandRequest`. -/
def Engine.storeReg {w : Nat} (e : Engine w) (reg : Reg) (v : Word w) : Engine w :=
  match reg with
  | .n => { e with n := v }
  | .a => { e with a := v }
  | .b => { e with b := v }
  | .cmd => e
  | .status => e
  | .result => e
  | .cfgN => e
  | .r => e
  | .x => e
  | .nprime => e
  | .r2 => e
  | .params => e
  | .reserved12 => e
  | .reserved13 => e
  | .reserved14 => e
  | .reserved15 => e

/-- The current reducer constants, which MUL and REDC read (30_encoding.md R82). -/
def Engine.reducer {w : Nat} (e : Engine w) : Reducer w where
  cfgN := e.cfgN
  r := e.r
  x := e.x
  nprime := e.nprime
  r2 := e.r2

/-- The commands that need a configured reducer (40_host_port.md R102: opcodes 0x02 and 0x03). -/
def needsConfig : Command → Bool
  | .nop => false
  | .config => false
  | .mul => true
  | .redc => true

end Sys2Proof.Machine
end

