-- ==== Sys2Proof/Machine/Ops.lean ====
section
/-! DEFINITION. The shared operations: rejection (60_exceptions.md R207; the engine's one error event, it has
no exception entry and no return, R200, R208), acceptance and the request that decides between them
(40_host_port.md R102), the completion (40_host_port.md R103), the two turns of a command, the reset input
(70_reset_and_hazards.md R230), and how a step takes the next agent's action from the stream
(20_memory.md R68). -/

namespace Sys2Proof.Machine

/-- `raise CmdError(code)` (60_exceptions.md R207). -/
def Engine.reject {w : Nat} (e : Engine w) (cause : CmdError) : Engine w :=
  { e with status := rejectStatus e.status cause }

/-- The accepting branch of COMMAND_REQUEST (40_host_port.md R102). -/
def Engine.accept {w : Nat} (e : Engine w) (c : Command) : Engine w :=
  { e with
    snap := { op := c, n := e.n, a := e.a, b := e.b }
    status := acceptStatus e.status
    phase := .busy }

/-- COMMAND_REQUEST(v), with its checks in the order of 60_exceptions.md R206 (40_host_port.md R102). -/
def Engine.commandRequest {w : Nat} (e : Engine w) (v : Word w) : Engine w :=
  if e.flag .busy then e.reject .busy
  else
    match decodeCmd v with
    | .error cause => e.reject cause
    | .ok c => if needsConfig c && !e.flag .cfgValid then e.reject .notConfigured else e.accept c

/-- The common completion (40_host_port.md R103). The snapshot is left as it stands: R103 does not write it, and its
contents after a completion may be any value (93_implementation_defined.md V7), so that keeping them is a DESIGN CHOICE
(log 9). -/
def Engine.finish {w : Nat} (e : Engine w) : Engine w :=
  { e with status := finishStatus e.status, phase := .idle }

/-- COMPLETE for command `c`, whose own completion is `commit` (40_host_port.md R103). It is enabled when the
phase is BUSY and `c` is the accepted command; when it is not enabled nothing happens (log 6). -/
def Engine.completeWith {w : Nat} (e : Engine w) (c : Command) (commit : Engine w → Engine w) : Engine w :=
  if e.phase = .busy ∧ e.snap.op = c then (commit e).finish else e

/-- What command `c` does in the present turn: in a host's turn its request, which is the PORT_WRITE of its
word to CMD; in the engine's turn its completion (log 5). -/
def State.commandTurn (s : State) (c : Command) (commit : Engine s.width.bits → Engine s.width.bits) : State :=
  match s.agent with
  | .host _ => { s with engine := s.engine.commandRequest (c.word s.width.bits) }
  | .engine => { s with engine := s.engine.completeWith c commit }

/-- RESET() (70_reset_and_hazards.md R230). The snapshot is meaningless from then on
(10_state.md R46): that it is left as it stands is a DESIGN CHOICE (log 9). -/
def Engine.resetInput {w : Nat} (e : Engine w) : Engine w :=
  { e with
    n := 0
    a := 0
    b := 0
    result := 0
    cfgN := 0
    r := 0
    x := 0
    nprime := 0
    r2 := 0
    status := 0
    phase := .idle }

/-- What the next step is: an instruction to run, with the state it runs in, or a state reached without
one. -/
inductive Fetched where
  | run (i : Instr) (s : State)
  | settled (s : State)
deriving DecidableEq, Repr

/-- The engine's turn: COMPLETE of the accepted command, enabled exactly when the phase is BUSY
(40_host_port.md R103); otherwise nothing changes (60_exceptions.md R217; logs 3, 4). -/
def State.engineTurn (s : State) : Fetched :=
  if s.engine.phase = .busy then .run s.engine.snap.op.toInstr { s with agent := .engine, reply := none }
  else .settled s

/-- The next step in the total order of 20_memory.md R68: a host's transaction is decoded, a completion step is
the engine's, reset is taken at once, and the transactions still to come are the hosts' and stay. When no step of
another agent is left the engine has its turn, which is the fairness of 70_reset_and_hazards.md R239 (log 3). -/
def State.fetch (s : State) : Fetched :=
  match s.stream with
  | .port h t :: rest => .run (decodePort t) { s with stream := rest, agent := .host h, reply := none }
  | .complete :: rest => State.engineTurn { s with stream := rest }
  | .reset :: rest => .settled { s with engine := s.engine.resetInput, stream := rest, reply := none }
  | [] => s.engineTurn

/-- `s` with a transaction of host 0 put before every other step. -/
def State.presentPort (s : State) (t : PortWord s.width.bits) : State :=
  { s with stream := .port 0 t :: s.stream }

/-- The port transaction that carries an opcode-table word to this build: a word of the build's command length
is written to CMD, a longer one is a port transaction as it stands (logs 14, 15). -/
def State.tableTransaction (s : State) (nbits w : Nat) : PortWord s.width.bits :=
  if nbits ≤ s.width.bits then
    BitVec.ofNat (s.width.bits + 5) (portNumber s.width.bits true Reg.cmd.index (w % 2 ^ s.width.bits))
  else BitVec.ofNat (s.width.bits + 5) w

end Sys2Proof.Machine
end

