-- ==== Sys2Proof/Machine/Configure.lean ====
section
/-! DEFINITION. CONFIG: the radix selector, the inverse solver, the domain-conversion constant
(41_configure.md R130 to R134). -/

namespace Sys2Proof.Machine

/-- The loop of RADIX, `while 2^x <= n: x := x + 1`, on exact integers (41_configure.md R130). The first
argument bounds the number of increments. -/
def radixSearch (n : Nat) : Nat → Nat → Nat
  | 0, x => x
  | k + 1, x => if 2 ^ x ≤ n then radixSearch n k (x + 1) else x

/-- The exponent RADIX selects. The search needs at most W increments, since `2^W > n` (41_configure.md
R130). -/
def radixExp {w : Nat} (n : Word w) : Nat := radixSearch n.toNat w 0

/-- RADIX(n) = (x, rreg) (41_configure.md R130). -/
def radix {w : Nat} (n : Word w) : Nat × Word w :=
  let x := radixExp n
  (x, BitVec.ofNat w (2 ^ x))

/-- The variables of the loop of INVSOLVE (41_configure.md R131). -/
structure InvVars (w : Nat) where
  tmp : Word w
  i : Word w
  np : Word w
deriving DecidableEq, Repr

/-- One iteration of the loop of INVSOLVE (41_configure.md R131). -/
def invIter {w : Nat} (n : Word w) (v : InvVars w) : InvVars w :=
  let even := !v.tmp.getLsbD 0
  let tmp := if even then v.tmp + n else v.tmp
  let np := if even then v.np + v.i else v.np
  { tmp := shr tmp 1, i := v.i * 2, np := np }

/-- The loop of INVSOLVE: exactly as many iterations as the first number says (41_configure.md R131). -/
def invLoop {w : Nat} (n : Word w) : Nat → InvVars w → InvVars w
  | 0, v => v
  | k + 1, v => invLoop n k (invIter n v)

/-- INVSOLVE(n, x) (41_configure.md R131). -/
def invsolve {w : Nat} (n : Word w) (x : Nat) : Word w :=
  (invLoop n x { tmp := 0, i := 1, np := 0 }).np

/-- R2CALC(n, rreg) = (r2, sq_wrap) (41_configure.md R132). -/
def r2calc {w : Nat} (n rreg : Word w) : Word w × Bool :=
  let rm := remz rreg n
  let sq := rm * rm
  (remz sq n, wrapsMul rm rm)

/-- The constants and flags that CONFIG_COMPLETE(n) computes, a function of n alone (41_configure.md R134). -/
def configure {w : Nat} (n : Word w) : Reducer w × CfgFlags :=
  let xr := radix n
  let np := invsolve n xr.1
  let r2 := r2calc n xr.2
  ({ cfgN := n, r := xr.2, x := BitVec.ofNat w xr.1, nprime := np, r2 := r2.1 }, cfgFlags n xr.1 r2.2)

/-- CONFIG_COMPLETE(snap.n) (41_configure.md R134). -/
def Engine.configComplete {w : Nat} (e : Engine w) : Engine w :=
  let c := (configure e.snap.n).1
  let f := (configure e.snap.n).2
  { e with
    cfgN := c.cfgN
    r := c.r
    x := c.x
    nprime := c.nprime
    r2 := c.r2
    status := configStatus e.status f }

/-- CONFIG (41_configure.md R134). -/
def execConfig (s : State) : Host.Outcome State Fault Refusal :=
  .next (s.commandTurn .config Engine.configComplete)

end Sys2Proof.Machine
end

