-- ==== Sys2Proof/Machine/HostPort.lean ====
section
/-! DEFINITION. The port transactions PORT_READ and PORT_WRITE and the command NOP (40_host_port.md R100, R101,
R104). -/

namespace Sys2Proof.Machine

/-- PORT_READ (40_host_port.md R100): the value goes to the host as the transaction's `rdata`; no state of the
engine is written. -/
def execPortRead (reg : Reg) (s : State) : Host.Outcome State Fault Refusal :=
  .next { s with reply := some (s.engine.readReg reg) }

/-- PORT_WRITE (40_host_port.md R101): a write to CMD is a command request, any other index stores or
ignores. -/
def execPortWrite (reg : Reg) (wdata : Nat) (s : State) : Host.Outcome State Fault Refusal :=
  match reg with
  | .cmd => .next { s with engine := s.engine.commandRequest (BitVec.ofNat s.width.bits wdata) }
  | _ => .next { s with engine := s.engine.storeReg reg (BitVec.ofNat s.width.bits wdata) }

/-- NOP_COMPLETE (40_host_port.md R104). -/
def Engine.nopComplete {w : Nat} (e : Engine w) : Engine w :=
  { e with status := putFlag e.status .ovf false }

/-- NOP (40_host_port.md R104). -/
def execNop (s : State) : Host.Outcome State Fault Refusal :=
  .next (s.commandTurn .nop Engine.nopComplete)

end Sys2Proof.Machine
end

