-- ==== Sys2Proof/Machine/Redc.lean ====
section
/-! DEFINITION. REDC, the Montgomery reduction (42_redc.md R160 to R162). -/

namespace Sys2Proof.Machine

/-- REDC(T) = (t, w) with the constants `c` (42_redc.md R160); the second component is the wrap predicate of
R161. -/
def redc {w : Nat} (c : Reducer w) (T : Word w) : Word w × Bool :=
  let m := (T * c.nprime) &&& (c.r - 1)
  let u := m * c.cfgN
  let s := T + u
  let t := shr s c.x.toNat
  (if c.cfgN ≤ t then t - c.cfgN else t,
    wrapsMul m c.cfgN || wrapsAdd T u || decide (c.x.toNat = w))

/-- REDC_COMPLETE(snap.a) (42_redc.md R162). -/
def Engine.redcComplete {w : Nat} (e : Engine w) : Engine w :=
  let tw := redc e.reducer e.snap.a
  { e with result := tw.1, status := putFlag e.status .ovf tw.2 }

/-- REDC (42_redc.md R162). -/
def execRedc (s : State) : Host.Outcome State Fault Refusal :=
  .next (s.commandTurn .redc Engine.redcComplete)

end Sys2Proof.Machine
end

