-- ==== Sys2Proof/Machine/Multiply.lean ====
section
/-! DEFINITION. MUL, the domain-convert-and-reduce multiplier (43_multiply.md R180, R181). -/

namespace Sys2Proof.Machine

/-- MULSEQ(a, b) = (res, ovf) with the constants `c` and the STATUS.CFG_OVF `cfgOvf` (43_multiply.md R180). -/
def mulseq {w : Nat} (c : Reducer w) (cfgOvf : Bool) (a b : Word w) : Word w × Bool :=
  let abar := redc c (a * c.r2)
  let bbar := redc c (b * c.r2)
  let cbar := redc c (abar.1 * bbar.1)
  let res := redc c cbar.1
  (res.1,
    cfgOvf || wrapsMul a c.r2 || abar.2 || wrapsMul b c.r2 || bbar.2
      || wrapsMul abar.1 bbar.1 || cbar.2 || res.2)

/-- MUL_COMPLETE(snap.a, snap.b) (43_multiply.md R181). -/
def Engine.mulComplete {w : Nat} (e : Engine w) : Engine w :=
  let ro := mulseq e.reducer (e.flag .cfgOvf) e.snap.a e.snap.b
  { e with result := ro.1, status := putFlag e.status .ovf ro.2 }

/-- MUL (43_multiply.md R181). -/
def execMul (s : State) : Host.Outcome State Fault Refusal :=
  .next (s.commandTurn .mul Engine.mulComplete)

end Sys2Proof.Machine
end

