-- ==== Sys2Proof/Machine/Dispatch.lean ====
section
/-! DEFINITION. The meaning of every instruction: one arm per constructor of Instr. -/

namespace Sys2Proof.Machine

def exec (i : Instr) (s : State) : Host.Outcome State Fault Refusal :=
  match i with
  | .nop => Sys2Proof.Machine.execNop s
  | .config => Sys2Proof.Machine.execConfig s
  | .mul => Sys2Proof.Machine.execMul s
  | .redc => Sys2Proof.Machine.execRedc s
  | .portRead reg => Sys2Proof.Machine.execPortRead reg s
  | .portWrite reg wdata => Sys2Proof.Machine.execPortWrite reg wdata s

end Sys2Proof.Machine
end

