-- ==== Sys2Proof/Machine/Step.lean ====
section
/-! DEFINITION. One step of the machine, and how an opcode-table word is placed where the next step takes it. -/

namespace Sys2Proof.Machine

/-- One step of the total order of 20_memory.md R68: the next agent's action is taken from the stream
(`State.fetch`) and, where it is an instruction, run. -/
def step (s : State) : Host.Outcome State Fault Refusal :=
  match s.fetch with
  | .run i t => exec i t
  | .settled t => .next t

/-- `s` with an opcode-table word as the very next step, issued by host 0 (log 14). -/
def State.withFetchWord (s : State) (nbits w : Nat) : State :=
  s.presentPort (s.tableTransaction nbits w)

end Sys2Proof.Machine
end

