-- ==== Sys2Proof/Machine/Assembly.lean ====
section
/-! DEFINITION. The host assembly syntax and the pseudo-instructions, as lists of port transactions
(30_encoding.md R86, R87). Host variables and the WAIT loop are the host's own control flow (log 20): an
expansion takes the number of STATUS reads that its WAIT makes. -/

namespace Sys2Proof.Machine

/-- `WR <reg>, <value>` (30_encoding.md R86). -/
def asmWr (reg : Reg) (value : Nat) : Instr := .portWrite reg value

/-- `WR CMD, <mnemonic>`: the mnemonic stands for its opcode value (30_encoding.md R86). -/
def asmCommand (c : Command) : Instr := .portWrite .cmd c.opcode.toNat

/-- `RD <reg> -> h<k>`: the value the host keeps is the `reply` of the step (30_encoding.md R86). -/
def asmRd (reg : Reg) : Instr := .portRead reg

/-- `WAIT` that makes `polls` reads of STATUS (30_encoding.md R87). -/
def asmWait (polls : Nat) : List Instr := List.replicate polls (asmRd .status)

/-- The test that ends the WAIT loop: bit 0 of the value read, BUSY, is 0 (30_encoding.md R87). -/
def waitEnds {w : Nat} (h : Word w) : Bool := !h.getLsbD 0

/-- `CONFIG_N <n>` (30_encoding.md R87). -/
def asmConfigN (n polls : Nat) : List Instr :=
  [asmWr .n n, asmCommand .config] ++ asmWait polls

/-- `MULT <a>, <b> -> h<k>` (30_encoding.md R87). -/
def asmMult (a b polls : Nat) : List Instr :=
  [asmWr .a a, asmWr .b b, asmCommand .mul] ++ asmWait polls ++ [asmRd .result]

/-- `REDUCE <t> -> h<k>` (30_encoding.md R87). -/
def asmReduce (t polls : Nat) : List Instr :=
  [asmWr .a t, asmCommand .redc] ++ asmWait polls ++ [asmRd .result]

/-- `CHECK -> h<k>` (30_encoding.md R87). -/
def asmCheck : List Instr := [asmRd .status]

/-- The steps by which host `h` issues a list of instructions. -/
def hostSteps (w : Width) (h : Nat) (is : List Instr) : List (Event w.bits) :=
  is.map fun i => .port h (portForm w i)

end Sys2Proof.Machine
end

