-- ==== Sys2Proof/Safety.lean ====
section
/-! DEFINITION. The terms that claims about the machine are stated in: registers as integers (00_scope.md R7),
runs, what the next step is, the invariants of every reachable state (10_state.md R49), and the commands'
arithmetic written on integers with the operators of 00_scope.md R8. -/

namespace Sys2Proof.Machine

/-! ## Observations, runs, next steps -/

/-- A register as a host reads it, as an integer (00_scope.md R7, 40_host_port.md R100). -/
def State.value (s : State) (reg : Reg) : Nat := (s.engine.readReg reg).toNat

/-- `k` steps, stopping at the first outcome that is not a next state. -/
def run : Nat → State → Host.Outcome State Fault Refusal
  | 0, s => .next s
  | k + 1, s =>
    match step s with
    | .next t => run k t
    | .fault f => .fault f
    | .refused r => .refused r

/-- The next step is the reset input. -/
def State.nextIsReset (s : State) : Prop := s.stream.head? = some .reset

/-- The next step is the completion of command `c`. -/
def State.nextCompletes (s : State) (c : Command) : Prop :=
  s.engine.phase = .busy ∧ s.engine.snap.op = c ∧ (s.stream = [] ∨ s.stream.head? = some .complete)

/-- The next step is a PORT_WRITE to `reg`. -/
def State.nextWrites (s : State) (reg : Reg) : Prop :=
  ∃ h t rest v, s.stream = .port h t :: rest ∧ decodePort t = .portWrite reg v

/-- It is the engine's turn to complete command `c` (40_host_port.md R103). -/
def State.completing (s : State) (c : Command) : Prop :=
  s.agent = .engine ∧ s.engine.phase = .busy ∧ s.engine.snap.op = c

/-! ## Invariants -/

/-- The configuration flags of STATUS (60_exceptions.md R209). -/
def Engine.configFlags {w : Nat} (e : Engine w) : CfgFlags where
  modEven := e.flag .modEven
  modZero := e.flag .modZero
  rangeWarn := e.flag .rangeWarn
  radixOvf := e.flag .radixOvf
  cfgOvf := e.flag .cfgOvf

/-- The six items of 10_state.md R49, of an engine. -/
structure SpecInvariant {w : Nat} (e : Engine w) : Prop where
  /-- Item 1. -/
  unconfigured : e.flag .cfgValid = false →
    e.cfgN = 0 ∧ e.r = 0 ∧ e.x = 0 ∧ e.nprime = 0 ∧ e.r2 = 0
  /-- Item 2. -/
  radix : e.flag .cfgValid = true → e.flag .radixOvf = false →
    e.r.toNat = 2 ^ e.x.toNat ∧ e.cfgN.toNat < e.r.toNat ∧ e.r.toNat / 2 ≤ e.cfgN.toNat
  /-- Item 3. -/
  inverse : e.flag .cfgValid = true → e.flag .radixOvf = false → e.flag .modEven = false →
    e.cfgN.toNat * e.nprime.toNat % e.r.toNat = e.r.toNat - 1 ∧ e.nprime.toNat < e.r.toNat
  /-- Item 4. -/
  conversion : e.flag .cfgValid = true → e.flag .modZero = false → e.flag .cfgOvf = false →
    e.r2.toNat = (2 ^ e.x.toNat) ^ 2 % e.cfgN.toNat ∧ e.r2.toNat < e.cfgN.toNat
  /-- Item 5. -/
  busy_not_done : e.flag .busy = true → e.flag .done = false
  /-- Item 6. -/
  reserved : e.status.extractLsb' 10 2 = 0 ∧ e.status.toNat < 2 ^ 16

/-- What the rules say besides R49 of the engine in every reachable state: BUSY and the phase agree (10_state.md R24,
R45); the constants and configuration flags are those of one CONFIG of CFG_N, or all 0 before the first
(10_state.md R27, R38 to R44); MUL and REDC run only on a configured reducer (60_exceptions.md R205); CMD_ERR and
ERRCODE agree and ERRCODE is at most 4 (10_state.md R26, 60_exceptions.md R201). -/
structure Consistent {w : Nat} (e : Engine w) : Prop where
  busy_iff_phase : e.flag .busy = true ↔ e.phase = .busy
  configured : e.flag .cfgValid = true →
    e.reducer = (configure e.cfgN).1 ∧ e.configFlags = (configure e.cfgN).2
  unconfigured : e.flag .cfgValid = false →
    e.reducer = { cfgN := 0, r := 0, x := 0, nprime := 0, r2 := 0 } ∧
    e.configFlags =
      { modEven := false, modZero := false, rangeWarn := false, radixOvf := false, cfgOvf := false } ∧
    e.result = 0 ∧ e.flag .ovf = false
  running_configured : e.phase = .busy → needsConfig e.snap.op = true → e.flag .cfgValid = true
  error_code : (e.flag .cmdErr = true ↔ e.errcode ≠ 0) ∧ e.errcode.toNat ≤ 4

/-! ## The arithmetic on integers -/

/-- INVSOLVE on unbounded integers, where `tmp + n` never wraps: `k` iterations from `tmp`, `i`, `np`
(41_configure.md R131). -/
def invInt (n : Nat) : Nat → Nat → Nat → Nat → Nat
  | 0, _, _, np => np
  | k + 1, tmp, i, np =>
    if tmp % 2 = 0 then invInt n k ((tmp + n) / 2) (i * 2) (np + i) else invInt n k (tmp / 2) (i * 2) np

/-- REDC(T) on integers, at width `W` with the constants `n`, `r`, `x`, `np` (42_redc.md R160). -/
def redcInt (W n r x np T : Nat) : Nat × Bool :=
  let m := (T * np % 2 ^ W) &&& ((r + 2 ^ W - 1) % 2 ^ W)
  let u := m * n % 2 ^ W
  let s := (T + u) % 2 ^ W
  let t := if x < W then s / 2 ^ x else 0
  (if n ≤ t then t - n else t, decide (2 ^ W ≤ m * n ∨ 2 ^ W ≤ T + u ∨ x = W))

/-- MULSEQ(a, b) on integers (43_multiply.md R180). -/
def mulInt (W n r x np r2 : Nat) (cfgOvf : Bool) (a b : Nat) : Nat × Bool :=
  let abar := redcInt W n r x np (a * r2 % 2 ^ W)
  let bbar := redcInt W n r x np (b * r2 % 2 ^ W)
  let cbar := redcInt W n r x np (abar.1 * bbar.1 % 2 ^ W)
  let res := redcInt W n r x np cbar.1
  (res.1,
    decide (cfgOvf = true ∨ 2 ^ W ≤ a * r2 ∨ abar.2 = true ∨ 2 ^ W ≤ b * r2 ∨ bbar.2 = true ∨
      2 ^ W ≤ abar.1 * bbar.1 ∨ cbar.2 = true ∨ res.2 = true))

/-- REDC with the present reducer constants, on integers. -/
def Engine.redcInt {w : Nat} (e : Engine w) (T : Nat) : Nat × Bool :=
  Machine.redcInt w e.cfgN.toNat e.r.toNat e.x.toNat e.nprime.toNat T

/-- MULSEQ with the present reducer constants, on integers. -/
def Engine.mulInt {w : Nat} (e : Engine w) (a b : Nat) : Nat × Bool :=
  Machine.mulInt w e.cfgN.toNat e.r.toNat e.x.toNat e.nprime.toNat e.r2.toNat (e.flag .cfgOvf) a b

/-- The exponent `x` with `2^x` the smallest power of two greater than `n` (41_configure.md R130). -/
def IsRadixExp (n x : Nat) : Prop := n < 2 ^ x ∧ ∀ y, n < 2 ^ y → x ≤ y

end Sys2Proof.Machine
end

