-- ==== Sys2Proof/Certificates/Slice0/Obligations.lean ====
section
/-! DEFINITION. The statements for the provers. Registers are compared as integers (00_scope.md R7) through
`State.value` where two states stand side by side, and a next state is written as one record update of the state
before it wherever the rules fix it whole, which is its frame as well. -/

open Sys2Proof Sys2Proof.Machine

/-! ## Encoding (30_encoding.md) -/

/-- R80, R81, R83: the decoder reads every well-formed instruction back from its word, in every build. -/
def Obligations.DecodeOfEncodeIsTheInstruction : Prop :=
  ∀ (w : Width) (i : Instr), i.wellFormed w = true →
    decodeTableWord (encode w i).bits (encode w i).word = some i

/-- R80: the fields of a port word are read where the format puts them. -/
def Obligations.PortFieldsAreReadInPlace : Prop :=
  ∀ (w : Width) (we : Bool) (idx : Fin 16) (wdata : Nat), wdata < 2 ^ w.bits →
    decodePort (BitVec.ofNat (w.bits + 5) (we.toNat * 2 ^ (w.bits + 4) + idx.val * 2 ^ w.bits + wdata)) =
      if we then .portWrite (Reg.ofIndex (BitVec.ofFin idx)) wdata else .portRead (Reg.ofIndex (BitVec.ofFin idx))

/-- R80: every word of W+5 bits is a transaction that the encodings can carry, and encoding it again gives the
word back, but for the ignored data of a PORT_READ. -/
def Obligations.EveryPortWordIsATransaction : Prop :=
  ∀ (w : Width) (t : PortWord w.bits), (decodePort t).wellFormed w = true ∧
    (portForm w (decodePort t)).toNat =
      if 2 ^ (w.bits + 4) ≤ t.toNat then t.toNat else t.toNat / 2 ^ w.bits * 2 ^ w.bits

/-- R81, R83, R84, R85: which command words decode to which command, and which are rejected with which cause. -/
def Obligations.CommandWordsDecodeToOneOutcome : Prop :=
  ∀ (w : Width) (v : Word w.bits),
    decodeCmd v =
      if 256 ≤ v.toNat then .error .reservedBits
      else if v.toNat = 0 then .ok .nop
      else if v.toNat = 1 then .ok .config
      else if v.toNat = 2 then .ok .mul
      else if v.toNat = 3 then .ok .redc
      else .error .illegalOpcode

/-- R83, R86: the transaction a host sends for an instruction decodes to that transaction, and for a command
to the PORT_WRITE of its opcode to CMD. -/
def Obligations.HostFormDecodes : Prop :=
  ∀ (w : Width) (i : Instr), i.wellFormed w = true →
    decodePort (portForm w i) =
      match i with
      | .nop => .portWrite .cmd 0
      | .config => .portWrite .cmd 1
      | .mul => .portWrite .cmd 2
      | .redc => .portWrite .cmd 3
      | .portRead reg => .portRead reg
      | .portWrite reg v => .portWrite reg v

/-- R80, R83: a few words written out in 95_test_vectors.md, and one with a reserved bit set. -/
def Obligations.WrittenOutWordsDecode : Prop :=
  decodeTableWord 72 0x120000000000000007 = some (.portWrite .n 7) ∧
  decodeTableWord 72 0x13ffffffffffffffff = some (.portWrite .a 0xffffffffffffffff) ∧
  decodeTableWord 72 0x0b0000000000000000 = some (.portRead .params) ∧
  decodeTableWord 24 0x1200a1 = some (.portWrite .n 161) ∧
  decodeTableWord 64 0x1 = some .config ∧
  decodeTableWord 64 0x3 = some .redc ∧
  decodeTableWord 64 0x100 = none

/-! ## Steps (20_memory.md R68, 40_host_port.md R103) -/

/-- R68: a step at a host's transaction runs the decoded instruction, with the transaction taken from the stream,
its host the acting agent and no data returned yet. -/
def Obligations.StepRunsTheDecodedTransaction : Prop :=
  ∀ (s : State) (h : Nat) (t : PortWord s.width.bits) (rest : List (Event s.width.bits)),
    s.stream = .port h t :: rest →
      step s = exec (decodePort t) { s with stream := rest, agent := .host h, reply := none }

/-- R103: when the phase is BUSY, a completion step runs the accepted command in the engine's turn; so does the
step at the end of the stream (log 3). -/
def Obligations.StepRunsTheAcceptedCommand : Prop :=
  ∀ s : State, s.engine.phase = .busy →
    (∀ rest, s.stream = .complete :: rest →
      step s = exec s.engine.snap.op.toInstr { s with stream := rest, agent := .engine, reply := none }) ∧
    (s.stream = [] → step s = exec s.engine.snap.op.toInstr { s with agent := .engine, reply := none })

/-- Log 14: an opcode-table word placed by `withFetchWord` is what the very next step runs, as host 0's. -/
def Obligations.TableWordIsTheNextStep : Prop :=
  ∀ (s : State) (i : Instr), i.wellFormed s.width = true →
    step (s.withFetchWord (encode s.width i).bits (encode s.width i).word) =
      exec i { s with agent := .host 0, reply := none }

/-- 93_implementation_defined.md, R200: no instruction and no step of any state faults or is refused. -/
def Obligations.EveryStepHasANextState : Prop :=
  (∀ (i : Instr) (s : State), ∃ t, exec i s = .next t) ∧ ∀ s : State, ∃ t, step s = .next t

/-- R103, R217: an IDLE engine with no step to come stays as it is, and a completion step is not enabled, so that it
only leaves the stream (logs 3, 4). -/
def Obligations.IdleEngineStaysAsItIs : Prop :=
  ∀ s : State, s.engine.phase = .idle →
    (s.stream = [] → step s = .next s) ∧
    ∀ rest, s.stream = .complete :: rest → step s = .next { s with stream := rest }

/-! ## Port transactions (40_host_port.md R100, R101) -/

/-- R100: a PORT_READ returns the register's value by the table and writes no state of the engine. -/
def Obligations.PortReadReturnsTheRegister : Prop :=
  ∀ (s : State) (idx : Fin 16),
    exec (.portRead (Reg.ofIndex (BitVec.ofFin idx))) s =
      .next { s with
        reply := some ([0, s.engine.status, s.engine.n, s.engine.a, s.engine.b, s.engine.result, s.engine.cfgN,
          s.engine.r, s.engine.x, s.engine.nprime, s.engine.r2,
          BitVec.ofNat s.width.bits s.width.bits, 0, 0, 0, 0].getD idx.val 0) }

/-- R23: the value read from STATUS is made of the fields at their bit positions, in every state that meets
R49. -/
def Obligations.StatusReadIsItsFields : Prop :=
  ∀ s : State, SpecInvariant s.engine →
    let flag := fun f => (s.engine.flag f).toNat
    s.value .status =
      flag .busy + 2 * flag .done + 4 * flag .cmdErr + 8 * flag .cfgValid + 16 * flag .modEven +
      32 * flag .modZero + 64 * flag .rangeWarn + 128 * flag .radixOvf + 256 * flag .ovf +
      512 * flag .cfgOvf + 4096 * s.engine.errcode.toNat

/-- R43: PARAMS reads W in bits 7:0 and 0 above, and a write to it is ignored. -/
def Obligations.ParamsReadsTheWidth : Prop :=
  ∀ s : State,
    (∃ v, exec (.portRead .params) s = .next { s with reply := some v } ∧
      v.toNat % 256 = s.width.bits ∧ v.toNat / 256 = 0) ∧
    ∀ wdata, exec (.portWrite .params wdata) s = .next s

/-- R101, R34, R35, R36: a PORT_WRITE to N, A or B stores all W bits there and changes nothing else, as the whole
state shows and as the value of every register of the port shows. -/
def Obligations.PortWriteStoresTheOperand : Prop :=
  ∀ (s : State) (v : Nat), v < 2 ^ s.width.bits →
    exec (.portWrite .n v) s = .next { s with engine := { s.engine with n := BitVec.ofNat s.width.bits v } } ∧
    exec (.portWrite .a v) s = .next { s with engine := { s.engine with a := BitVec.ofNat s.width.bits v } } ∧
    exec (.portWrite .b v) s = .next { s with engine := { s.engine with b := BitVec.ofNat s.width.bits v } } ∧
    ∀ reg, reg = .n ∨ reg = .a ∨ reg = .b →
      ∃ t, exec (.portWrite reg v) s = .next t ∧ t.value reg = v ∧
        ∀ other, other ≠ reg → t.value other = s.value other

/-- R101, R65: a PORT_WRITE to a read-only or reserved index changes nothing at all. -/
def Obligations.PortWriteElsewhereIsIgnored : Prop :=
  ∀ (s : State) (reg : Reg) (v : Nat), reg ≠ .cmd → reg ≠ .n → reg ≠ .a → reg ≠ .b →
    exec (.portWrite reg v) s = .next s

/-! ## Command requests (40_host_port.md R102, 60_exceptions.md R200 to R208) -/

/-- R102, R46: an accepted request takes the snapshot, sets the phase and writes BUSY, DONE, CMD_ERR and ERRCODE;
nothing else changes. -/
def Obligations.AcceptanceTakesTheSnapshot : Prop :=
  ∀ (s : State) (c : Command), s.engine.flag .busy = false →
    (c = .mul ∨ c = .redc → s.engine.flag .cfgValid = true) →
    ∃ st, exec (.portWrite .cmd c.opcode.toNat) s =
        .next { s with
          engine := { s.engine with
            snap := { op := c, n := s.engine.n, a := s.engine.a, b := s.engine.b }
            status := st
            phase := .busy } } ∧
      ∀ i, st.getLsbD i =
        if i = 0 then true
        else if i = 1 ∨ i = 2 ∨ 12 ≤ i ∧ i < 16 then false
        else s.engine.status.getLsbD i

/-- R203, R204, R205, R207: with BUSY = 0, a value with reserved bits is rejected with code 2, another value of 4 or
more with code 3, and MUL or REDC without a configuration with code 4; the rejection sets CMD_ERR and writes the code,
and nothing else changes. -/
def Obligations.RejectionReportsTheFirstCause : Prop :=
  ∀ (s : State) (v : Nat), v < 2 ^ s.width.bits → s.engine.flag .busy = false →
    (4 ≤ v ∨ 2 ≤ v ∧ s.engine.flag .cfgValid = false) →
    ∃ st, exec (.portWrite .cmd v) s = .next { s with engine := { s.engine with status := st } } ∧
      ∀ i, st.getLsbD i =
        if i = 2 then true
        else if 12 ≤ i ∧ i < 16 then (if 256 ≤ v then 2 else if 4 ≤ v then 3 else 4 : Nat).testBit (i - 12)
        else s.engine.status.getLsbD i

/-- R202: with BUSY = 1 every value is rejected with code 1, nothing but CMD_ERR and ERRCODE changes, and the
completion of the running command then differs from the one without the write in these two fields only. -/
def Obligations.BusyRejectionLeavesTheRunningCommand : Prop :=
  ∀ (s : State) (v : Nat), s.engine.flag .busy = true →
    ∃ st, exec (.portWrite .cmd v) s = .next { s with engine := { s.engine with status := st } } ∧
      (∀ i, st.getLsbD i =
        if i = 2 then true
        else if 12 ≤ i ∧ i < 16 then (1 : Nat).testBit (i - 12)
        else s.engine.status.getLsbD i) ∧
      (s.engine.phase = .busy → ∃ (e : Engine s.width.bits) (st' : Word s.width.bits),
        exec s.engine.snap.op.toInstr { s with agent := .engine } = .next { s with engine := e, agent := .engine } ∧
        exec s.engine.snap.op.toInstr { s with engine := { s.engine with status := st }, agent := .engine } =
          .next { s with engine := { e with status := st' }, agent := .engine } ∧
        ∀ i, ¬(i = 2 ∨ 12 ≤ i ∧ i < 16) → st'.getLsbD i = e.status.getLsbD i)

/-- Log 5 (the model's choice): in a host's turn a command's meaning is the PORT_WRITE of its opcode to CMD
(opcode_table.json: "issued_by"). -/
def Obligations.CommandInAHostsTurnIsItsRequest : Prop :=
  ∀ (s : State) (h : Nat), s.agent = .host h →
    exec .nop s = exec (.portWrite .cmd 0) s ∧
    exec .config s = exec (.portWrite .cmd 1) s ∧
    exec .mul s = exec (.portWrite .cmd 2) s ∧
    exec .redc s = exec (.portWrite .cmd 3) s

/-! ## Completions (40_host_port.md R103) -/

/-- R104, R103: the completion of NOP clears OVF and BUSY, sets DONE, and changes nothing else. That the snapshot, then
meaningless, stays as it was is the model's choice (log 9). -/
def Obligations.NopCompletes : Prop :=
  ∀ s : State, s.completing .nop →
    ∃ st, exec .nop s = .next { s with engine := { s.engine with status := st, phase := .idle } } ∧
      ∀ i, st.getLsbD i = if i = 1 then true else if i = 0 ∨ i = 8 then false else s.engine.status.getLsbD i

/-- R134, R130 to R133, R103: the completion of CONFIG writes the constants of the snapshot's modulus and the
configuration flags, all computed on integers, and changes nothing else. That the snapshot, then meaningless, stays as it
was is the model's choice (log 9). -/
def Obligations.ConfigCompletes : Prop :=
  ∀ s : State, s.completing .config →
    ∃ (x : Nat) (r np r2 st : Word s.width.bits),
      exec .config s =
        .next { s with
          engine := { s.engine with
            cfgN := s.engine.snap.n
            r := r
            x := BitVec.ofNat s.width.bits x
            nprime := np
            r2 := r2
            status := st
            phase := .idle } } ∧
      let W := s.width.bits
      let n := s.engine.snap.n.toNat
      let rm := if n = 0 then r.toNat else r.toNat % n
      let sq := rm * rm % 2 ^ W
      IsRadixExp n x ∧ x ≤ W ∧ r.toNat = 2 ^ x % 2 ^ W ∧ np.toNat = invInt n x 0 1 0 ∧
      r2.toNat = (if n = 0 then sq else sq % n) ∧
      ∀ i, st.getLsbD i =
        if i = 0 then false
        else if i = 1 then true
        else if i = 3 then true
        else if i = 4 then decide (n % 2 = 0)
        else if i = 5 then decide (n = 0)
        else if i = 6 then decide (2 ^ (W / 2 - 1) ≤ n)
        else if i = 7 then decide (2 ^ (W - 1) ≤ n)
        else if i = 8 ∨ i = 9 then decide (2 ^ (W - 1) ≤ n ∨ 2 ^ W ≤ rm * rm)
        else s.engine.status.getLsbD i

/-- R162, R160, R161, R103: the completion of REDC writes RESULT and OVF as the rule computes them on integers, and
changes nothing else. That the snapshot, then meaningless, stays as it was is the model's choice (log 9). -/
def Obligations.RedcCompletes : Prop :=
  ∀ s : State, s.completing .redc →
    ∃ res st, exec .redc s =
      .next { s with engine := { s.engine with result := res, status := st, phase := .idle } } ∧
      res.toNat = (s.engine.redcInt s.engine.snap.a.toNat).1 ∧
      ∀ i, st.getLsbD i =
        if i = 0 then false
        else if i = 1 then true
        else if i = 8 then (s.engine.redcInt s.engine.snap.a.toNat).2
        else s.engine.status.getLsbD i

/-- R181, R180, R103: the completion of MUL writes RESULT and OVF as the rule computes them on integers, and changes
nothing else. That the snapshot, then meaningless, stays as it was is the model's choice (log 9). -/
def Obligations.MulCompletes : Prop :=
  ∀ s : State, s.completing .mul →
    ∃ res st, exec .mul s =
      .next { s with engine := { s.engine with result := res, status := st, phase := .idle } } ∧
      res.toNat = (s.engine.mulInt s.engine.snap.a.toNat s.engine.snap.b.toNat).1 ∧
      ∀ i, st.getLsbD i =
        if i = 0 then false
        else if i = 1 then true
        else if i = 8 then (s.engine.mulInt s.engine.snap.a.toNat s.engine.snap.b.toNat).2
        else s.engine.status.getLsbD i

/-- R134: configuring again with the modulus already configured leaves every constant and every configuration flag as it
is. That the snapshot stays as it was too is the model's choice (log 9). -/
def Obligations.ReconfiguringTheSameModulusChangesNothing : Prop :=
  ∀ s : State, Consistent s.engine → s.completing .config → s.engine.flag .cfgValid = true →
    s.engine.snap.n = s.engine.cfgN →
    ∃ st, exec .config s = .next { s with engine := { s.engine with status := st, phase := .idle } } ∧
      ∀ i, ¬(i = 0 ∨ i = 1 ∨ i = 8) → st.getLsbD i = s.engine.status.getLsbD i

/-! ## The arithmetic (41_configure.md, 42_redc.md, 43_multiply.md) -/

/-- R130: RADIX selects the smallest power of two greater than n, its exponent is at most W and is 0 only for
n = 0, and register R gets it modulo 2^W. -/
def Obligations.RadixIsTheSmallestPowerAbove : Prop :=
  ∀ (w : Width) (n : Word w.bits),
    IsRadixExp n.toNat (radix n).1 ∧ (radix n).1 ≤ w.bits ∧ ((radix n).1 = 0 ↔ n = 0) ∧
    ((radix n).1 = w.bits ↔ 2 ^ (w.bits - 1) ≤ n.toNat) ∧
    (radix n).2.toNat = 2 ^ (radix n).1 % 2 ^ w.bits

/-- R131: the wrap of `tmp + n` never changes n': INVSOLVE on W-bit words gives what it gives on unbounded integers, for
every modulus. -/
def Obligations.InverseSolverWrapIsHarmless : Prop :=
  ∀ (w : Width) (n : Word w.bits) (x : Nat), x ≤ w.bits →
    (invsolve n x).toNat = invInt n.toNat x 0 1 0

/-- R131: n' is below 2^x for every modulus, and for an odd one it is the only number below 2^x with
n·n' ≡ -1 (mod 2^x). -/
def Obligations.InverseSolverGivesTheInverse : Prop :=
  ∀ (w : Width) (n : Word w.bits) (x : Nat), x ≤ w.bits →
    (invsolve n x).toNat < 2 ^ x ∧
    (n.toNat % 2 = 1 →
      n.toNat * (invsolve n x).toNat % 2 ^ x = 2 ^ x - 1 ∧
      ∀ y, y < 2 ^ x → n.toNat * y % 2 ^ x = 2 ^ x - 1 → y = (invsolve n x).toNat)

/-- R132: the conversion constant is r² mod n when the radix fits and the square does not wrap, 0 when the radix does
not fit, and the square wraps only for n above 2^(W/2). -/
def Obligations.ConversionConstantIsRSquared : Prop :=
  ∀ (w : Width) (n : Word w.bits),
    let x := (radix n).1
    let r2 := (r2calc n (radix n).2).1.toNat
    let sqWrap := (r2calc n (radix n).2).2
    (1 ≤ n.toNat → x < w.bits → sqWrap = false → r2 = (2 ^ x) ^ 2 % n.toNat ∧ r2 < n.toNat) ∧
    (x = w.bits → r2 = 0) ∧
    (sqWrap = true → 2 ^ (w.bits / 2) < n.toNat) ∧
    (n = 0 → r2 = 1) ∧
    (n = 1 → r2 = 0)

/-- R28, R29, R31, R133: what the configuration flags say of the modulus, and which imply which. -/
def Obligations.ConfigurationFlagsDescribeTheModulus : Prop :=
  ∀ (w : Width) (n : Word w.bits),
    let f := (configure n).2
    (f.modEven = true ↔ n.toNat % 2 = 0) ∧
    (f.modZero = true ↔ n.toNat = 0) ∧
    (f.rangeWarn = true ↔ 2 ^ (w.bits / 2 - 1) ≤ n.toNat) ∧
    (f.radixOvf = true ↔ 2 ^ (w.bits - 1) ≤ n.toNat) ∧
    (f.modZero = true → f.modEven = true) ∧
    (f.radixOvf = true → f.rangeWarn = true ∧ f.cfgOvf = true) ∧
    (f.cfgOvf = true → f.rangeWarn = true)

/-- R160: the wrap of `T · n'` is harmless: for the constants of any modulus, `m` is exactly `(T · n') mod 2^x`. -/
def Obligations.RedcMaskIsTheRemainder : Prop :=
  ∀ (w : Width) (n T : Word w.bits),
    let c := (configure n).1
    ((T * c.nprime) &&& (c.r - 1)).toNat = T.toNat * c.nprime.toNat % 2 ^ c.x.toNat

/-- R163: the four properties of REDC for an odd modulus below 2^(W-1), with an instance of an unreduced result. -/
def Obligations.RedcReducesExactly : Prop :=
  (∀ (w : Width) (nw T : Word w.bits), nw.toNat % 2 = 1 → nw.toNat < 2 ^ (w.bits - 1) →
    let c := (configure nw).1
    let n := nw.toNat
    let r := c.r.toNat
    let m := T.toNat * c.nprime.toNat % r
    let tPre := (T.toNat + m * n) / r
    let t := (redc c T).1.toNat
    r = 2 ^ c.x.toNat ∧
    ((redc c T).2 = false →
      r ∣ T.toNat + m * n ∧ t = (if n ≤ tPre then tPre - n else tPre) ∧
      t * r % n = T.toNat % n ∧
      (T.toNat < n * r → tPre < 2 * n ∧ t < n) ∧
      t ≤ T.toNat / r + n) ∧
    (n < 2 ^ (w.bits / 2 - 1) → T.toNat < n * r → (redc c T).2 = false)) ∧
  ∃ (w : Width) (nw T : Word w.bits), nw.toNat % 2 = 1 ∧ nw.toNat < 2 ^ (w.bits - 1) ∧
    (redc (configure nw).1 T).2 = false ∧ nw.toNat ≤ (redc (configure nw).1 T).1.toNat

/-- R182: the four properties of MUL for an odd modulus, the last with an instance of an unreduced result. -/
def Obligations.MulMultipliesModuloN : Prop :=
  (∀ (w : Width) (nw a b : Word w.bits), nw.toNat % 2 = 1 →
    let n := nw.toNat
    let c := (configure nw).1
    let ro := mulseq c (configure nw).2.cfgOvf a b
    (ro.2 = false → ro.1.toNat % n = a.toNat * b.toNat % n) ∧
    (ro.2 = false → a.toNat < n → b.toNat < n → ro.1.toNat = a.toNat * b.toNat % n) ∧
    (n < 2 ^ (w.bits / 2 - 1) → a.toNat < n → b.toNat < n →
      ro.2 = false ∧ ro.1.toNat = a.toNat * b.toNat % n)) ∧
  ∃ (w : Width) (nw a b : Word w.bits), nw.toNat % 2 = 1 ∧
    (mulseq (configure nw).1 (configure nw).2.cfgOvf a b).2 = false ∧
    nw.toNat ≤ (mulseq (configure nw).1 (configure nw).2.cfgOvf a b).1.toNat

/-- R182, R181: on the machine, with a configured odd modulus in the safe domain and operands below it, the completion
of MUL writes (a·b) mod n to RESULT and 0 to OVF. -/
def Obligations.MulOnTheMachineIsExactInTheSafeDomain : Prop :=
  ∀ s : State, Consistent s.engine → s.completing .mul → s.engine.flag .modEven = false →
    s.engine.flag .rangeWarn = false →
    s.engine.snap.a.toNat < s.engine.cfgN.toNat → s.engine.snap.b.toNat < s.engine.cfgN.toNat →
    ∃ t, exec .mul s = .next t ∧
      t.value .result = s.engine.snap.a.toNat * s.engine.snap.b.toNat % s.engine.cfgN.toNat ∧
      t.engine.flag .ovf = false ∧ t.engine.flag .busy = false ∧ t.engine.flag .done = true

/-- R162, R181: the corner cases of the modulus: for n = 0 REDC is the identity and MUL is the plain product with its
wrap reported; for n = 1 and for every power of two MUL gives 0. -/
def Obligations.CornerCaseModuli : Prop :=
  ∀ (w : Width) (nw a b : Word w.bits),
    let c := (configure nw).1
    let f := (configure nw).2
    (nw = 0 → redc c a = (a, false) ∧
      mulseq c f.cfgOvf a b = (a * b, decide (2 ^ w.bits ≤ a.toNat * b.toNat))) ∧
    (nw = 1 → (mulseq c f.cfgOvf a b).1 = 0) ∧
    (∀ k, nw.toNat = 2 ^ k → (mulseq c f.cfgOvf a b).1 = 0)

/-! ## Who may change what -/

/-- 00_scope.md R5: the width of the build never changes. -/
def Obligations.WidthNeverChanges : Prop :=
  ∀ s t : State, step s = .next t → t.width = s.width

/-- R44: the reducer constants and the configuration flags change only at the completion of a CONFIG or at reset. -/
def Obligations.ReducerChangesOnlyByConfigOrReset : Prop :=
  ∀ s t : State, step s = .next t → ¬s.nextCompletes .config → ¬s.nextIsReset →
    (∀ reg, reg = .cfgN ∨ reg = .r ∨ reg = .x ∨ reg = .nprime ∨ reg = .r2 → t.value reg = s.value reg) ∧
    t.engine.flag .cfgValid = s.engine.flag .cfgValid ∧ t.engine.configFlags = s.engine.configFlags

/-- R37: RESULT changes only at the completion of a MUL or a REDC or at reset. -/
def Obligations.ResultChangesOnlyByMulRedcOrReset : Prop :=
  ∀ s t : State, step s = .next t → ¬s.nextCompletes .mul → ¬s.nextCompletes .redc → ¬s.nextIsReset →
    t.value .result = s.value .result

/-- R34, R35, R36: N, A and B change only by a PORT_WRITE to them or at reset. -/
def Obligations.OperandsChangeOnlyByTheHostOrReset : Prop :=
  ∀ (s t : State) (reg : Reg), reg = .n ∨ reg = .a ∨ reg = .b →
    step s = .next t → ¬s.nextWrites reg → ¬s.nextIsReset → t.value reg = s.value reg

/-- R46: a completion never reads the live N, A and B: whatever they hold, it writes the same values to the same
places. That it leaves the same snapshot contents as well is the model's choice (log 9). -/
def Obligations.CompletionIgnoresTheLiveOperands : Prop :=
  ∀ s : State, s.engine.phase = .busy →
    ∃ e : Engine s.width.bits, ∀ n a b,
      exec s.engine.snap.op.toInstr { s with engine := { s.engine with n := n, a := a, b := b }, agent := .engine } =
        .next { s with engine := { e with n := n, a := a, b := b }, agent := .engine }

/-- R46 (93_implementation_defined.md V7): while the engine is IDLE the contents of the snapshot are never read: a step
from two states that differ only there leads to states that differ only there, and to the same state if it accepts a
command. -/
def Obligations.IdleSnapshotIsNeverRead : Prop :=
  ∀ (s : State) (p : Snapshot s.width.bits) (t t' : State), s.engine.phase = .idle →
    step s = .next t → step { s with engine := { s.engine with snap := p } } = .next t' →
    (∃ q, t' = { t with engine := { t.engine with snap := q } }) ∧ (t.engine.phase = .busy → t' = t)

/-! ## Reset (70_reset_and_hazards.md) -/

/-- R230: reset puts 0 into every register and STATUS and IDLE into the phase, from any state, whatever the engine was
doing; only PARAMS reads otherwise. -/
def Obligations.ResetClearsEveryRegister : Prop :=
  ∀ (s : State) (rest : List (Event s.width.bits)), s.stream = .reset :: rest →
    ∃ t, step s = .next t ∧ t.engine.phase = .idle ∧ t.width = s.width ∧ t.value .params = s.width.bits ∧
      ∀ reg, reg ≠ .params → t.value reg = 0

/-- R231: a command abandoned by reset writes none of its results and never completes: the completion step that was
to come finds nothing to do. The same holds for a command accepted in the transaction just before the reset step. -/
def Obligations.ResetAbandonsTheRunningCommand : Prop :=
  (∀ (s : State) (rest : List (Event s.width.bits)), s.engine.phase = .busy →
    s.stream = .reset :: .complete :: rest →
    ∃ t, run 2 s = .next t ∧ t.engine.phase = .idle ∧ t.engine.flag .cfgValid = false ∧
      ∀ reg, reg ≠ .params → t.value reg = 0) ∧
  ∀ (s : State) (h : Nat) (w : PortWord s.width.bits) (rest : List (Event s.width.bits)),
    s.stream = .port h w :: .reset :: .complete :: rest →
    ∃ t, run 3 s = .next t ∧ t.engine.phase = .idle ∧ t.engine.flag .cfgValid = false ∧
      ∀ reg, reg ≠ .params → t.value reg = 0

/-- R230, R49: the state after reset meets both invariants, in every build and with every stream of steps to come. -/
def Obligations.InitialStateMeetsTheInvariants : Prop :=
  ∀ (w : Width) (stream : List (Event w.bits)),
    SpecInvariant (State.initial w stream).engine ∧ Consistent (State.initial w stream).engine

/-! ## Invariants, fairness, races -/

/-- R49: every step keeps the six items of R49, from every state that meets them. -/
def Obligations.StepKeepsTheSpecInvariant : Prop :=
  ∀ s t : State, SpecInvariant s.engine → step s = .next t → SpecInvariant t.engine

/-- R24, R26, R27, R44, R45: every step keeps the agreement of BUSY with the phase, of the constants and flags with one
configuration, of the running command with CFG_VALID, and of CMD_ERR with ERRCODE. -/
def Obligations.StepKeepsConsistency : Prop :=
  ∀ s t : State, Consistent s.engine → step s = .next t → Consistent t.engine

/-- R49: the six items hold in every reachable state, of every build, for every order of transactions, completions and
resets. -/
def Obligations.ReachableStatesMeetTheSpecInvariant : Prop :=
  ∀ (w : Width) (stream : List (Event w.bits)) (k : Nat) (t : State),
    run k (State.initial w stream) = .next t → SpecInvariant t.engine

/-- R239: an accepted command completes, as it was accepted, after finitely many steps unless reset intervenes, whatever
the hosts do meanwhile (log 3 says where the bound comes from: it is the model's choice). That the snapshot still holds
the accepted command after its completion, which is how the statement names that command, is the model's choice too
(log 9). -/
def Obligations.AcceptedCommandCompletes : Prop :=
  ∀ s : State, s.engine.phase = .busy → s.engine.flag .busy = true → .reset ∉ s.stream →
    ∃ (k : Nat) (e : Engine s.width.bits) (rest : List (Event s.width.bits)), k ≤ s.stream.length + 1 ∧
      run k s = .next { s with engine := e, stream := rest, agent := .engine, reply := none } ∧
      e.phase = .idle ∧ e.snap = s.engine.snap ∧ e.flag .busy = false ∧ e.flag .done = true

/-- R235: a command written while another runs is rejected with BUSY if it comes before the completion, and accepted if
it comes after. -/
def Obligations.CommandWhileBusyHasBothOutcomes : Prop :=
  ∀ (s : State) (h : Nat) (c : Command), s.engine.phase = .busy → s.engine.flag .busy = true →
    (c = .mul ∨ c = .redc → s.engine.flag .cfgValid = true) →
    (∃ t, run 2 { s with stream := [.port h (portForm s.width c.toInstr), .complete] } = .next t ∧
      t.engine.phase = .idle ∧ t.engine.flag .done = true ∧ t.engine.flag .cmdErr = true ∧
      t.engine.errcode = 1) ∧
    ∃ t, run 2 { s with stream := [.complete, .port h (portForm s.width c.toInstr)] } = .next t ∧
      t.engine.phase = .busy ∧ t.engine.snap.op = c ∧ t.engine.flag .done = false ∧ t.engine.flag .cmdErr = false ∧
      t.engine.errcode = 0
end

