-- ==== Sys2Proof/Laws/Datapath.lean ====
section
/-! SUPPORT. The datapath operators on integers (00_scope.md R8). -/

namespace Sys2Proof.Machine

theorem shr_toNat {w : Nat} (v : Word w) (s : Nat) : (shr v s).toNat = if s < w then v.toNat / 2 ^ s else 0 := by
  unfold shr
  split <;> simp [Nat.shiftRight_eq_div_pow]

theorem remz_toNat {w : Nat} (a b : Word w) :
    (remz a b).toNat = if b.toNat = 0 then a.toNat else a.toNat % b.toNat := by
  unfold remz
  by_cases h : b = 0
  · subst h
    simp
  · have hb : b.toNat ≠ 0 := fun h0 => h (BitVec.eq_of_toNat_eq (by simpa using h0))
    rw [if_neg h, if_neg hb, BitVec.toNat_umod]

theorem wrapsAdd_iff {w : Nat} (a b : Word w) : wrapsAdd a b = true ↔ 2 ^ w ≤ a.toNat + b.toNat :=
  decide_eq_true_iff

theorem wrapsMul_iff {w : Nat} (a b : Word w) : wrapsMul a b = true ↔ 2 ^ w ≤ a.toNat * b.toNat :=
  decide_eq_true_iff

/-- A product that does not wrap is the product of the integers. -/
theorem toNat_mul_of_no_wrap {w : Nat} {a b : Word w} (h : wrapsMul a b = false) :
    (a * b).toNat = a.toNat * b.toNat := by
  have := of_decide_eq_false h
  rw [BitVec.toNat_mul, Nat.mod_eq_of_lt (by omega)]

/-- A sum that does not wrap is the sum of the integers. -/
theorem toNat_add_of_no_wrap {w : Nat} {a b : Word w} (h : wrapsAdd a b = false) :
    (a + b).toNat = a.toNat + b.toNat := by
  have := of_decide_eq_false h
  rw [BitVec.toNat_add, Nat.mod_eq_of_lt (by omega)]

end Sys2Proof.Machine
end

