-- ==== Sys2Proof/Laws/Flags.lean ====
section
/-! SUPPORT. Reading STATUS after writing it: one lemma for each bit operation, then one for each pair of field
operations. -/

namespace Sys2Proof.Machine

theorem sixteen_le_bits (w : Width) : 16 ≤ w.bits := by cases w <;> decide

theorem getLsbD_writeBit {w : Nat} (v : Word w) (i j : Nat) (b : Bool) :
    (writeBit v i b).getLsbD j = if j = i ∧ i < w then b else v.getLsbD j := by
  unfold writeBit
  by_cases hj : j < w
  · cases b <;> by_cases h : j = i <;> simp [h, hj, BitVec.getLsbD_twoPow] <;> omega
  · have : ¬(j = i ∧ i < w) := by omega
    simp [this, BitVec.getLsbD_of_ge _ _ (Nat.le_of_not_lt hj)]

theorem getLsbD_writeNibble {w : Nat} (v : Word w) (i j : Nat) (c : BitVec 4) (hi : i + 4 ≤ w) :
    (writeNibble v i c).getLsbD j = if i ≤ j ∧ j < i + 4 then c.getLsbD (j - i) else v.getLsbD j := by
  unfold writeNibble
  have ones (k : Nat) : (BitVec.allOnes 4).getLsbD k = decide (k < 4) := BitVec.getLsbD_allOnes
  generalize BitVec.allOnes 4 = m at ones
  by_cases hj : j < w
  · by_cases h1 : i ≤ j
    · have h5 : ¬ j < i := by omega
      by_cases h2 : j < i + 4
      · have h3 : j - i < 4 := by omega
        have h4 : j - i < w := by omega
        simp [h1, h2, h3, h5, hj, ones]
      · have h3 : ¬ j - i < 4 := by omega
        have h4 : c.getLsbD (j - i) = false := BitVec.getLsbD_of_ge _ _ (by omega)
        simp [h1, h2, h3, h4, hj, ones]
    · have h3 : j < i := by omega
      simp [h1, h3, hj]
  · have h : ¬(i ≤ j ∧ j < i + 4) := by omega
    simp [h, BitVec.getLsbD_of_ge _ _ (Nat.le_of_not_lt hj)]

theorem Flag.pos_le (f : Flag) : f.pos ≤ 9 := by cases f <;> decide

theorem Flag.pos_injective (f g : Flag) : f.pos = g.pos ↔ f = g := by cases f <;> cases g <;> decide

theorem Flag.pos_lt_bits (f : Flag) (w : Width) : f.pos < w.bits := by
  have := f.pos_le
  have := sixteen_le_bits w
  omega

/-! ## One field after writing another -/

@[simp] theorem getFlag_putFlag {w : Width} (v : Word w.bits) (f g : Flag) (b : Bool) :
    getFlag (putFlag v g b) f = if f = g then b else getFlag v f := by
  unfold getFlag putFlag
  rw [getLsbD_writeBit]
  simp only [g.pos_lt_bits w, and_true, Flag.pos_injective]

@[simp] theorem getFlag_putErrcode {w : Width} (v : Word w.bits) (f : Flag) (c : BitVec 4) :
    getFlag (putErrcode v c) f = getFlag v f := by
  have := f.pos_le
  have h : ¬(errcodePos ≤ f.pos ∧ f.pos < errcodePos + 4) := by simp only [errcodePos]; omega
  unfold getFlag putErrcode
  rw [getLsbD_writeNibble _ errcodePos _ _ (sixteen_le_bits w), if_neg h]

@[simp] theorem getErrcode_putErrcode {w : Width} (v : Word w.bits) (c : BitVec 4) :
    getErrcode (putErrcode v c) = c := by
  apply BitVec.eq_of_getLsbD_eq
  intro i hi
  have h : errcodePos ≤ errcodePos + i ∧ errcodePos + i < errcodePos + 4 := by omega
  unfold getErrcode putErrcode
  rw [BitVec.getLsbD_extractLsb', getLsbD_writeNibble _ errcodePos _ _ (sixteen_le_bits w), if_pos h]
  simp [hi]

@[simp] theorem getErrcode_putFlag {w : Nat} (v : Word w) (f : Flag) (b : Bool) :
    getErrcode (putFlag v f b) = getErrcode v := by
  have := f.pos_le
  apply BitVec.eq_of_getLsbD_eq
  intro i hi
  have h : ¬(errcodePos + i = f.pos ∧ f.pos < w) := by simp only [errcodePos]; omega
  unfold getErrcode putFlag
  rw [BitVec.getLsbD_extractLsb', BitVec.getLsbD_extractLsb', getLsbD_writeBit, if_neg h]

/-! ## Every bit of STATUS after each of the four updates -/

theorem getLsbD_putFlag {w : Width} (v : Word w.bits) (f : Flag) (b : Bool) (j : Nat) :
    (putFlag v f b).getLsbD j = if j = f.pos then b else v.getLsbD j := by
  unfold putFlag
  rw [getLsbD_writeBit]
  simp only [f.pos_lt_bits w, and_true]

theorem getLsbD_putErrcode {w : Width} (v : Word w.bits) (c : BitVec 4) (j : Nat) :
    (putErrcode v c).getLsbD j = if 12 ≤ j ∧ j < 16 then c.getLsbD (j - 12) else v.getLsbD j :=
  getLsbD_writeNibble v errcodePos j c (sixteen_le_bits w)

/-- A rejection writes bit 2 and ERRCODE and nothing else (60_exceptions.md R207). -/
theorem getLsbD_rejectStatus {w : Width} (v : Word w.bits) (e : CmdError) (j : Nat) :
    (rejectStatus v e).getLsbD j =
      if 12 ≤ j ∧ j < 16 then (errorCode e).getLsbD (j - 12) else if j = 2 then true else v.getLsbD j := by
  unfold rejectStatus
  rw [getLsbD_putErrcode, getLsbD_putFlag]
  rfl

/-- An acceptance writes bits 0, 1, 2 and ERRCODE and nothing else (40_host_port.md R102). -/
theorem getLsbD_acceptStatus {w : Width} (v : Word w.bits) (j : Nat) :
    (acceptStatus v).getLsbD j =
      if 12 ≤ j ∧ j < 16 then false else if j = 2 then false else if j = 1 then false
      else if j = 0 then true else v.getLsbD j := by
  have none (k : Nat) : (0 : BitVec 4).getLsbD k = false := BitVec.getLsbD_zero
  unfold acceptStatus
  rw [getLsbD_putErrcode, getLsbD_putFlag, getLsbD_putFlag, getLsbD_putFlag, none]
  rfl

/-- A completion writes bits 0 and 1 in common and nothing else (40_host_port.md R103). -/
theorem getLsbD_finishStatus {w : Width} (v : Word w.bits) (j : Nat) :
    (finishStatus v).getLsbD j = if j = 1 then true else if j = 0 then false else v.getLsbD j := by
  unfold finishStatus
  rw [getLsbD_putFlag, getLsbD_putFlag]
  rfl

/-- CONFIG writes bits 3 to 9 and nothing else (41_configure.md R134). -/
theorem getLsbD_configStatus {w : Width} (v : Word w.bits) (f : CfgFlags) (j : Nat) :
    (configStatus v f).getLsbD j =
      if j = 8 then f.cfgOvf else if j = 9 then f.cfgOvf else if j = 7 then f.radixOvf
      else if j = 6 then f.rangeWarn else if j = 5 then f.modZero else if j = 4 then f.modEven
      else if j = 3 then true else v.getLsbD j := by
  unfold configStatus
  simp only [getLsbD_putFlag]
  rfl

end Sys2Proof.Machine
end

