-- ==== Sys2Proof/Laws/State.lean ====
section
/-! SUPPORT. The small lemmas of the state: one per field per update, true by rfl, so that no later proof unfolds a
record update. -/

namespace Sys2Proof.Machine

theorem Engine.flag_eq {w : Nat} (e : Engine w) (f : Flag) : e.flag f = getFlag e.status f := rfl

theorem Engine.errcode_eq {w : Nat} (e : Engine w) : e.errcode = getErrcode e.status := rfl

/-! ## A rejection writes STATUS -/

@[simp] theorem Engine.reject_n {w : Nat} (e : Engine w) (cause : CmdError) : (e.reject cause).n = e.n := rfl
@[simp] theorem Engine.reject_a {w : Nat} (e : Engine w) (cause : CmdError) : (e.reject cause).a = e.a := rfl
@[simp] theorem Engine.reject_b {w : Nat} (e : Engine w) (cause : CmdError) : (e.reject cause).b = e.b := rfl
@[simp] theorem Engine.reject_result {w : Nat} (e : Engine w) (cause : CmdError) :
    (e.reject cause).result = e.result := rfl
@[simp] theorem Engine.reject_cfgN {w : Nat} (e : Engine w) (cause : CmdError) : (e.reject cause).cfgN = e.cfgN := rfl
@[simp] theorem Engine.reject_r {w : Nat} (e : Engine w) (cause : CmdError) : (e.reject cause).r = e.r := rfl
@[simp] theorem Engine.reject_x {w : Nat} (e : Engine w) (cause : CmdError) : (e.reject cause).x = e.x := rfl
@[simp] theorem Engine.reject_nprime {w : Nat} (e : Engine w) (cause : CmdError) :
    (e.reject cause).nprime = e.nprime := rfl
@[simp] theorem Engine.reject_r2 {w : Nat} (e : Engine w) (cause : CmdError) : (e.reject cause).r2 = e.r2 := rfl
@[simp] theorem Engine.reject_status {w : Nat} (e : Engine w) (cause : CmdError) :
    (e.reject cause).status = rejectStatus e.status cause := rfl
@[simp] theorem Engine.reject_phase {w : Nat} (e : Engine w) (cause : CmdError) :
    (e.reject cause).phase = e.phase := rfl
@[simp] theorem Engine.reject_snap {w : Nat} (e : Engine w) (cause : CmdError) : (e.reject cause).snap = e.snap := rfl

/-! ## An acceptance writes STATUS, the phase and the snapshot -/

@[simp] theorem Engine.accept_n {w : Nat} (e : Engine w) (c : Command) : (e.accept c).n = e.n := rfl
@[simp] theorem Engine.accept_a {w : Nat} (e : Engine w) (c : Command) : (e.accept c).a = e.a := rfl
@[simp] theorem Engine.accept_b {w : Nat} (e : Engine w) (c : Command) : (e.accept c).b = e.b := rfl
@[simp] theorem Engine.accept_result {w : Nat} (e : Engine w) (c : Command) : (e.accept c).result = e.result := rfl
@[simp] theorem Engine.accept_cfgN {w : Nat} (e : Engine w) (c : Command) : (e.accept c).cfgN = e.cfgN := rfl
@[simp] theorem Engine.accept_r {w : Nat} (e : Engine w) (c : Command) : (e.accept c).r = e.r := rfl
@[simp] theorem Engine.accept_x {w : Nat} (e : Engine w) (c : Command) : (e.accept c).x = e.x := rfl
@[simp] theorem Engine.accept_nprime {w : Nat} (e : Engine w) (c : Command) : (e.accept c).nprime = e.nprime := rfl
@[simp] theorem Engine.accept_r2 {w : Nat} (e : Engine w) (c : Command) : (e.accept c).r2 = e.r2 := rfl
@[simp] theorem Engine.accept_status {w : Nat} (e : Engine w) (c : Command) :
    (e.accept c).status = acceptStatus e.status := rfl
@[simp] theorem Engine.accept_phase {w : Nat} (e : Engine w) (c : Command) : (e.accept c).phase = .busy := rfl
@[simp] theorem Engine.accept_snap {w : Nat} (e : Engine w) (c : Command) :
    (e.accept c).snap = { op := c, n := e.n, a := e.a, b := e.b } := rfl

/-! ## The common completion writes STATUS and the phase -/

@[simp] theorem Engine.finish_n {w : Nat} (e : Engine w) : e.finish.n = e.n := rfl
@[simp] theorem Engine.finish_a {w : Nat} (e : Engine w) : e.finish.a = e.a := rfl
@[simp] theorem Engine.finish_b {w : Nat} (e : Engine w) : e.finish.b = e.b := rfl
@[simp] theorem Engine.finish_result {w : Nat} (e : Engine w) : e.finish.result = e.result := rfl
@[simp] theorem Engine.finish_cfgN {w : Nat} (e : Engine w) : e.finish.cfgN = e.cfgN := rfl
@[simp] theorem Engine.finish_r {w : Nat} (e : Engine w) : e.finish.r = e.r := rfl
@[simp] theorem Engine.finish_x {w : Nat} (e : Engine w) : e.finish.x = e.x := rfl
@[simp] theorem Engine.finish_nprime {w : Nat} (e : Engine w) : e.finish.nprime = e.nprime := rfl
@[simp] theorem Engine.finish_r2 {w : Nat} (e : Engine w) : e.finish.r2 = e.r2 := rfl
@[simp] theorem Engine.finish_status {w : Nat} (e : Engine w) : e.finish.status = finishStatus e.status := rfl
@[simp] theorem Engine.finish_phase {w : Nat} (e : Engine w) : e.finish.phase = .idle := rfl
@[simp] theorem Engine.finish_snap {w : Nat} (e : Engine w) : e.finish.snap = e.snap := rfl

/-! ## NOP's completion writes STATUS -/

@[simp] theorem Engine.nopComplete_n {w : Nat} (e : Engine w) : e.nopComplete.n = e.n := rfl
@[simp] theorem Engine.nopComplete_a {w : Nat} (e : Engine w) : e.nopComplete.a = e.a := rfl
@[simp] theorem Engine.nopComplete_b {w : Nat} (e : Engine w) : e.nopComplete.b = e.b := rfl
@[simp] theorem Engine.nopComplete_result {w : Nat} (e : Engine w) : e.nopComplete.result = e.result := rfl
@[simp] theorem Engine.nopComplete_cfgN {w : Nat} (e : Engine w) : e.nopComplete.cfgN = e.cfgN := rfl
@[simp] theorem Engine.nopComplete_r {w : Nat} (e : Engine w) : e.nopComplete.r = e.r := rfl
@[simp] theorem Engine.nopComplete_x {w : Nat} (e : Engine w) : e.nopComplete.x = e.x := rfl
@[simp] theorem Engine.nopComplete_nprime {w : Nat} (e : Engine w) : e.nopComplete.nprime = e.nprime := rfl
@[simp] theorem Engine.nopComplete_r2 {w : Nat} (e : Engine w) : e.nopComplete.r2 = e.r2 := rfl
@[simp] theorem Engine.nopComplete_status {w : Nat} (e : Engine w) :
    e.nopComplete.status = putFlag e.status .ovf false := rfl
@[simp] theorem Engine.nopComplete_phase {w : Nat} (e : Engine w) : e.nopComplete.phase = e.phase := rfl
@[simp] theorem Engine.nopComplete_snap {w : Nat} (e : Engine w) : e.nopComplete.snap = e.snap := rfl

/-! ## CONFIG's completion writes the constants and STATUS -/

@[simp] theorem Engine.configComplete_n {w : Nat} (e : Engine w) : e.configComplete.n = e.n := rfl
@[simp] theorem Engine.configComplete_a {w : Nat} (e : Engine w) : e.configComplete.a = e.a := rfl
@[simp] theorem Engine.configComplete_b {w : Nat} (e : Engine w) : e.configComplete.b = e.b := rfl
@[simp] theorem Engine.configComplete_result {w : Nat} (e : Engine w) : e.configComplete.result = e.result := rfl
@[simp] theorem Engine.configComplete_cfgN {w : Nat} (e : Engine w) :
    e.configComplete.cfgN = (configure e.snap.n).1.cfgN := rfl
@[simp] theorem Engine.configComplete_r {w : Nat} (e : Engine w) :
    e.configComplete.r = (configure e.snap.n).1.r := rfl
@[simp] theorem Engine.configComplete_x {w : Nat} (e : Engine w) :
    e.configComplete.x = (configure e.snap.n).1.x := rfl
@[simp] theorem Engine.configComplete_nprime {w : Nat} (e : Engine w) :
    e.configComplete.nprime = (configure e.snap.n).1.nprime := rfl
@[simp] theorem Engine.configComplete_r2 {w : Nat} (e : Engine w) :
    e.configComplete.r2 = (configure e.snap.n).1.r2 := rfl
@[simp] theorem Engine.configComplete_status {w : Nat} (e : Engine w) :
    e.configComplete.status = configStatus e.status (configure e.snap.n).2 := rfl
@[simp] theorem Engine.configComplete_phase {w : Nat} (e : Engine w) : e.configComplete.phase = e.phase := rfl
@[simp] theorem Engine.configComplete_snap {w : Nat} (e : Engine w) : e.configComplete.snap = e.snap := rfl

/-! ## REDC's completion writes RESULT and STATUS -/

@[simp] theorem Engine.redcComplete_n {w : Nat} (e : Engine w) : e.redcComplete.n = e.n := rfl
@[simp] theorem Engine.redcComplete_a {w : Nat} (e : Engine w) : e.redcComplete.a = e.a := rfl
@[simp] theorem Engine.redcComplete_b {w : Nat} (e : Engine w) : e.redcComplete.b = e.b := rfl
@[simp] theorem Engine.redcComplete_result {w : Nat} (e : Engine w) :
    e.redcComplete.result = (redc e.reducer e.snap.a).1 := rfl
@[simp] theorem Engine.redcComplete_cfgN {w : Nat} (e : Engine w) : e.redcComplete.cfgN = e.cfgN := rfl
@[simp] theorem Engine.redcComplete_r {w : Nat} (e : Engine w) : e.redcComplete.r = e.r := rfl
@[simp] theorem Engine.redcComplete_x {w : Nat} (e : Engine w) : e.redcComplete.x = e.x := rfl
@[simp] theorem Engine.redcComplete_nprime {w : Nat} (e : Engine w) : e.redcComplete.nprime = e.nprime := rfl
@[simp] theorem Engine.redcComplete_r2 {w : Nat} (e : Engine w) : e.redcComplete.r2 = e.r2 := rfl
@[simp] theorem Engine.redcComplete_status {w : Nat} (e : Engine w) :
    e.redcComplete.status = putFlag e.status .ovf (redc e.reducer e.snap.a).2 := rfl
@[simp] theorem Engine.redcComplete_phase {w : Nat} (e : Engine w) : e.redcComplete.phase = e.phase := rfl
@[simp] theorem Engine.redcComplete_snap {w : Nat} (e : Engine w) : e.redcComplete.snap = e.snap := rfl

/-! ## MUL's completion writes RESULT and STATUS -/

@[simp] theorem Engine.mulComplete_n {w : Nat} (e : Engine w) : e.mulComplete.n = e.n := rfl
@[simp] theorem Engine.mulComplete_a {w : Nat} (e : Engine w) : e.mulComplete.a = e.a := rfl
@[simp] theorem Engine.mulComplete_b {w : Nat} (e : Engine w) : e.mulComplete.b = e.b := rfl
@[simp] theorem Engine.mulComplete_result {w : Nat} (e : Engine w) :
    e.mulComplete.result = (mulseq e.reducer (e.flag .cfgOvf) e.snap.a e.snap.b).1 := rfl
@[simp] theorem Engine.mulComplete_cfgN {w : Nat} (e : Engine w) : e.mulComplete.cfgN = e.cfgN := rfl
@[simp] theorem Engine.mulComplete_r {w : Nat} (e : Engine w) : e.mulComplete.r = e.r := rfl
@[simp] theorem Engine.mulComplete_x {w : Nat} (e : Engine w) : e.mulComplete.x = e.x := rfl
@[simp] theorem Engine.mulComplete_nprime {w : Nat} (e : Engine w) : e.mulComplete.nprime = e.nprime := rfl
@[simp] theorem Engine.mulComplete_r2 {w : Nat} (e : Engine w) : e.mulComplete.r2 = e.r2 := rfl
@[simp] theorem Engine.mulComplete_status {w : Nat} (e : Engine w) :
    e.mulComplete.status = putFlag e.status .ovf (mulseq e.reducer (e.flag .cfgOvf) e.snap.a e.snap.b).2 := rfl
@[simp] theorem Engine.mulComplete_phase {w : Nat} (e : Engine w) : e.mulComplete.phase = e.phase := rfl
@[simp] theorem Engine.mulComplete_snap {w : Nat} (e : Engine w) : e.mulComplete.snap = e.snap := rfl

/-! ## Reset writes every register and the phase -/

@[simp] theorem Engine.resetInput_n {w : Nat} (e : Engine w) : e.resetInput.n = 0 := rfl
@[simp] theorem Engine.resetInput_a {w : Nat} (e : Engine w) : e.resetInput.a = 0 := rfl
@[simp] theorem Engine.resetInput_b {w : Nat} (e : Engine w) : e.resetInput.b = 0 := rfl
@[simp] theorem Engine.resetInput_result {w : Nat} (e : Engine w) : e.resetInput.result = 0 := rfl
@[simp] theorem Engine.resetInput_cfgN {w : Nat} (e : Engine w) : e.resetInput.cfgN = 0 := rfl
@[simp] theorem Engine.resetInput_r {w : Nat} (e : Engine w) : e.resetInput.r = 0 := rfl
@[simp] theorem Engine.resetInput_x {w : Nat} (e : Engine w) : e.resetInput.x = 0 := rfl
@[simp] theorem Engine.resetInput_nprime {w : Nat} (e : Engine w) : e.resetInput.nprime = 0 := rfl
@[simp] theorem Engine.resetInput_r2 {w : Nat} (e : Engine w) : e.resetInput.r2 = 0 := rfl
@[simp] theorem Engine.resetInput_status {w : Nat} (e : Engine w) : e.resetInput.status = 0 := rfl
@[simp] theorem Engine.resetInput_phase {w : Nat} (e : Engine w) : e.resetInput.phase = .idle := rfl
@[simp] theorem Engine.resetInput_snap {w : Nat} (e : Engine w) : e.resetInput.snap = e.snap := rfl

/-! ## A store to a register of the port -/

/-- A store writes N, A or B when it names it, and nothing else. -/
theorem Engine.storeReg_eq {w : Nat} (e : Engine w) (reg : Reg) (v : Word w) :
    e.storeReg reg v =
      { e with
        n := if reg = .n then v else e.n
        a := if reg = .a then v else e.a
        b := if reg = .b then v else e.b } := by
  cases reg <;> rfl

end Sys2Proof.Machine
end

