-- ==== Sys2Proof/Laws/Ops.lean ====
section
/-! SUPPORT. What each shared operation can do, said once: a request, a completion, a command's turn, the choice
of the next step, and a step. -/

namespace Sys2Proof.Machine

/-- A command request either is rejected with one of the four causes or is accepted, and under which conditions
(40_host_port.md R102). -/
theorem Engine.commandRequest_cases {w : Nat} (e : Engine w) (v : Word w) :
    (e.flag .busy = true ∧ e.commandRequest v = e.reject .busy) ∨
    (e.flag .busy = false ∧ ∃ cause, decodeCmd v = .error cause ∧ e.commandRequest v = e.reject cause) ∨
    (e.flag .busy = false ∧ ∃ c, decodeCmd v = .ok c ∧ needsConfig c = true ∧ e.flag .cfgValid = false ∧
      e.commandRequest v = e.reject .notConfigured) ∨
    (e.flag .busy = false ∧ ∃ c, decodeCmd v = .ok c ∧ (needsConfig c = true → e.flag .cfgValid = true) ∧
      e.commandRequest v = e.accept c) := by
  unfold Engine.commandRequest
  cases hb : e.flag .busy with
  | true => exact .inl ⟨rfl, rfl⟩
  | false =>
    cases hd : decodeCmd v with
    | error cause => exact .inr (.inl ⟨rfl, cause, rfl, rfl⟩)
    | ok c =>
      cases hn : needsConfig c with
      | false => exact .inr (.inr (.inr ⟨rfl, c, rfl, by simp [hn], by simp [hn]⟩))
      | true =>
        cases hv : e.flag .cfgValid with
        | false => exact .inr (.inr (.inl ⟨rfl, c, rfl, hn, rfl, by simp [hn]⟩))
        | true => exact .inr (.inr (.inr ⟨rfl, c, rfl, by simp, by simp [hn]⟩))

/-- The decoder of command words gives the command back from the command's word. -/
theorem decodeCmd_word (w : Width) (c : Command) : decodeCmd (c.word w.bits) = .ok c := by
  cases w <;> cases c <;> decide

/-- A command's word is its opcode as a number: the data of the CMD write that issues it. -/
theorem ofNat_opcode (w : Width) (c : Command) : BitVec.ofNat w.bits c.opcode.toNat = c.word w.bits := by
  cases w <;> cases c <;> decide

/-- Every port word is a transaction, never a command (30_encoding.md R80). -/
theorem decodePort_cases {w : Nat} (t : PortWord w) :
    (∃ reg, decodePort t = .portRead reg) ∨ ∃ reg v, decodePort t = .portWrite reg v := by
  unfold decodePort
  split
  · exact .inr ⟨_, _, rfl⟩
  · exact .inl ⟨_, rfl⟩

/-- COMPLETE runs the command's own completion and then the common one when it is enabled, and changes
nothing when it is not (40_host_port.md R103). -/
theorem Engine.completeWith_cases {w : Nat} (e : Engine w) (c : Command) (commit : Engine w → Engine w) :
    (e.phase = .busy ∧ e.snap.op = c ∧ e.completeWith c commit = (commit e).finish) ∨
    (¬(e.phase = .busy ∧ e.snap.op = c) ∧ e.completeWith c commit = e) := by
  unfold Engine.completeWith
  by_cases h : e.phase = .busy ∧ e.snap.op = c
  · exact .inl ⟨h.1, h.2, by rw [if_pos h]⟩
  · exact .inr ⟨h, by rw [if_neg h]⟩

/-- The completion of each command (40_host_port.md R103, the case split of COMPLETE). -/
def commitOf {w : Nat} : Command → Engine w → Engine w
  | .nop => Engine.nopComplete
  | .config => Engine.configComplete
  | .mul => Engine.mulComplete
  | .redc => Engine.redcComplete

/-- Every command's meaning is its turn. -/
theorem exec_command (c : Command) (s : State) : exec c.toInstr s = .next (s.commandTurn c (commitOf c)) := by
  cases c <;> rfl

/-- A command's turn is its request for a host and its completion for the engine. -/
theorem exec_command_host (c : Command) (s : State) (h : Nat) (ha : s.agent = .host h) :
    exec c.toInstr s = .next { s with engine := s.engine.commandRequest (c.word s.width.bits) } := by
  rw [exec_command]
  simp [State.commandTurn, ha]

theorem exec_command_engine (c : Command) (s : State) (ha : s.agent = .engine) :
    exec c.toInstr s = .next { s with engine := s.engine.completeWith c (commitOf c) } := by
  rw [exec_command]
  simp [State.commandTurn, ha]

/-- PORT_WRITE is a request for CMD and a store for every other index. -/
theorem exec_portWrite (reg : Reg) (wdata : Nat) (s : State) :
    exec (.portWrite reg wdata) s =
      .next { s with
        engine :=
          if reg = .cmd then s.engine.commandRequest (BitVec.ofNat s.width.bits wdata)
          else s.engine.storeReg reg (BitVec.ofNat s.width.bits wdata) } := by
  cases reg <;> rfl

/-- In its turn a BUSY engine completes the accepted command. -/
theorem State.engineTurn_busy (s : State) (h : s.engine.phase = .busy) :
    s.engineTurn = .run s.engine.snap.op.toInstr { s with agent := .engine, reply := none } := by
  simp [State.engineTurn, h]

/-- In its turn an IDLE engine does nothing. -/
theorem State.engineTurn_idle (s : State) (h : s.engine.phase = .idle) : s.engineTurn = .settled s := by
  simp [State.engineTurn, h]

/-- A step runs the fetched instruction or settles. -/
theorem step_run {s t : State} {i : Instr} (h : s.fetch = .run i t) : step s = exec i t := by
  simp [step, h]

theorem step_settled {s t : State} (h : s.fetch = .settled t) : step s = .next t := by
  simp [step, h]

/-! ## A step, by the head of the stream -/

theorem step_port {s : State} {h : Nat} {t : PortWord s.width.bits} {rest : List (Event s.width.bits)}
    (hs : s.stream = .port h t :: rest) :
    step s = exec (decodePort t) { s with stream := rest, agent := .host h, reply := none } :=
  step_run (by simp [State.fetch, hs])

theorem step_reset {s : State} {rest : List (Event s.width.bits)} (hs : s.stream = .reset :: rest) :
    step s = .next { s with engine := s.engine.resetInput, stream := rest, reply := none } :=
  step_settled (by simp [State.fetch, hs])

theorem step_complete_busy {s : State} {rest : List (Event s.width.bits)} (hs : s.stream = .complete :: rest)
    (hp : s.engine.phase = .busy) :
    step s = .next { s with
      engine := (commitOf s.engine.snap.op s.engine).finish
      stream := rest
      agent := .engine
      reply := none } := by
  have hf : s.fetch = .run s.engine.snap.op.toInstr { s with stream := rest, agent := .engine, reply := none } := by
    simp [State.fetch, hs, State.engineTurn, hp]
  rw [step_run hf, exec_command_engine _ _ rfl]
  simp [Engine.completeWith, hp]

theorem step_complete_idle {s : State} {rest : List (Event s.width.bits)} (hs : s.stream = .complete :: rest)
    (hp : s.engine.phase = .idle) : step s = .next { s with stream := rest } :=
  step_settled (by simp [State.fetch, hs, State.engineTurn, hp])

theorem step_empty_busy {s : State} (hs : s.stream = []) (hp : s.engine.phase = .busy) :
    step s = .next { s with
      engine := (commitOf s.engine.snap.op s.engine).finish
      agent := .engine
      reply := none } := by
  have hf : s.fetch = .run s.engine.snap.op.toInstr { s with agent := .engine, reply := none } := by
    simp [State.fetch, hs, State.engineTurn, hp]
  rw [step_run hf, exec_command_engine _ _ rfl]
  simp [Engine.completeWith, hp]

theorem step_empty_idle {s : State} (hs : s.stream = []) (hp : s.engine.phase = .idle) : step s = .next s :=
  step_settled (by simp [State.fetch, hs, State.engineTurn, hp])

/-- What a step can do to the engine, once and for all: nothing (a read, a write that stores nothing, a completion
that is not enabled), a store to N, A or B, a command request, the completion of the accepted command, or reset; the
width never changes. -/
theorem step_cases {s t : State} (h : step s = .next t) :
    ∃ (e : Engine s.width.bits) (rest : List (Event s.width.bits)) (who : Agent) (reply : Option (Word s.width.bits)),
      t = { s with engine := e, stream := rest, agent := who, reply := reply } ∧
      ((e = s.engine ∧ s.stream.head? ≠ some .reset ∧
          ((s.stream = [] ∨ s.stream.head? = some .complete) → s.engine.phase = .idle)) ∨
        (∃ host w reg v, s.stream = .port host w :: rest ∧ decodePort w = .portWrite reg v ∧ reg ≠ .cmd ∧
          e = s.engine.storeReg reg (BitVec.ofNat s.width.bits v)) ∨
        (∃ host w v, s.stream = .port host w :: rest ∧ decodePort w = .portWrite .cmd v ∧
          e = s.engine.commandRequest (BitVec.ofNat s.width.bits v)) ∨
        (s.engine.phase = .busy ∧ (s.stream = [] ∨ s.stream.head? = some .complete) ∧
          e = (commitOf s.engine.snap.op s.engine).finish) ∨
        (s.stream = .reset :: rest ∧ e = s.engine.resetInput)) := by
  have busyOrIdle : s.engine.phase = .busy ∨ s.engine.phase = .idle := by cases s.engine.phase <;> simp
  cases hs : s.stream with
  | nil =>
    rcases busyOrIdle with hp | hp
    · rw [step_empty_busy hs hp] at h
      cases h
      exact ⟨_, _, _, _, rfl, .inr (.inr (.inr (.inl ⟨hp, .inl rfl, rfl⟩)))⟩
    · rw [step_empty_idle hs hp] at h
      cases h
      exact ⟨_, _, _, _, rfl, .inl ⟨rfl, by simp, fun _ => hp⟩⟩
  | cons ev rest =>
    cases ev with
    | port host w =>
      rw [step_port hs] at h
      rcases decodePort_cases w with ⟨reg, hd⟩ | ⟨reg, v, hd⟩
      · rw [hd] at h
        cases h
        exact ⟨_, _, _, _, rfl, .inl ⟨rfl, by simp, by simp⟩⟩
      · rw [hd, exec_portWrite] at h
        cases h
        refine ⟨_, _, _, _, rfl, ?_⟩
        by_cases hr : reg = .cmd
        · subst hr
          exact .inr (.inr (.inl ⟨host, w, v, rfl, hd, rfl⟩))
        · exact .inr (.inl ⟨host, w, reg, v, rfl, hd, hr, if_neg hr⟩)
    | complete =>
      rcases busyOrIdle with hp | hp
      · rw [step_complete_busy hs hp] at h
        cases h
        exact ⟨_, _, _, _, rfl, .inr (.inr (.inr (.inl ⟨hp, .inr (by simp), rfl⟩)))⟩
      · rw [step_complete_idle hs hp] at h
        cases h
        exact ⟨_, _, _, _, rfl, .inl ⟨rfl, by simp, fun _ => hp⟩⟩
    | reset =>
      rw [step_reset hs] at h
      cases h
      exact ⟨_, _, _, _, rfl, .inr (.inr (.inr (.inr ⟨rfl, rfl⟩)))⟩

end Sys2Proof.Machine
end

