-- ==== Sys2Proof/Laws/PerInstr.lean ====
section
/-! SUPPORT. Statements about every instruction, proved constructor by constructor. `EncodeFits`: the encoder's
word of a well-formed instruction has no bit above its format's length (30_encoding.md R80, R81). -/

namespace Sys2Proof.Laws

def EncodeFits.Statement (i : Instr) : Prop :=
  ∀ w : Width, i.wellFormed w = true → (encode w i).word < 2 ^ (encode w i).bits

/-- The fields of a port word, each within its width, make a number of W+5 bits. -/
theorem portNumber_lt (w : Nat) (we : Bool) (idx : RegIndex) (wdata : Nat) (h : wdata < 2 ^ w) :
    portNumber w we idx wdata < 2 ^ (w + 5) := by
  have hi : idx.toNat < 16 := idx.isLt
  have hw : we.toNat ≤ 1 := Bool.toNat_le we
  have h4 : 2 ^ (w + 4) = 16 * 2 ^ w := by ring
  have h5 : 2 ^ (w + 5) = 32 * 2 ^ w := by ring
  unfold portNumber
  rw [h4, h5]
  nlinarith [Nat.mul_le_mul_right (2 ^ w) (Nat.le_of_lt_succ hi), Nat.mul_le_mul_right (16 * 2 ^ w) hw]

theorem EncodeFits.nop : EncodeFits.Statement .nop := fun _ _ => BitVec.isLt _

theorem EncodeFits.config : EncodeFits.Statement .config := fun _ _ => BitVec.isLt _

theorem EncodeFits.mul : EncodeFits.Statement .mul := fun _ _ => BitVec.isLt _

theorem EncodeFits.redc : EncodeFits.Statement .redc := fun _ _ => BitVec.isLt _

theorem EncodeFits.portRead (reg : Reg) : EncodeFits.Statement (.portRead reg) := fun w _ =>
  portNumber_lt w.bits false reg.index 0 (Nat.two_pow_pos _)

theorem EncodeFits.portWrite (reg : Reg) (wdata : Nat) : EncodeFits.Statement (.portWrite reg wdata) :=
  fun w h => portNumber_lt w.bits true reg.index wdata (of_decide_eq_true h)

end Sys2Proof.Laws
end

