-- ==== Sys2Proof/Tests/Slice0.lean ====
section
/-! SUPPORT. Tests: the well-formedness check, words written out from the encodings of 30_encoding.md, at most two single
steps for each instruction with the values of spec/95_test_vectors.md or of the rule named, and for every statement with
hypotheses one state and operands that meet them. -/

namespace Sys2Proof.Tests

open Sys2Proof.Machine

/-! ## The states the tests stand on -/

/-- The next state, where there is one. -/
def nextOf : Host.Outcome State Fault Refusal → Option State
  | .next t => some t
  | .fault _ => none
  | .refused _ => none

/-- A register after an outcome. -/
def after (o : Host.Outcome State Fault Refusal) (reg : Reg) : Option Nat := (nextOf o).map (·.value reg)

/-- The read data after an outcome. -/
def replyOf (o : Host.Outcome State Fault Refusal) : Option Nat := (nextOf o).bind fun t => t.reply.map (·.toNat)

/-- The reducer constants of n = 7 at W = 64: 95_test_vectors.md row S1; STATUS = 0xA (DONE, CFG_VALID). -/
def engine7 : Engine 64 :=
  { Engine.initial 64 with cfgN := 7, r := 8, x := 3, nprime := 1, r2 := 1, status := 0xA }

/-- The same with a command running on the operands n, a, b; STATUS = 0x9 (BUSY, CFG_VALID). -/
def busy7 (c : Command) (n a b : Word 64) : Engine 64 :=
  { engine7 with status := 0x9, phase := .busy, snap := { op := c, n := n, a := a, b := b } }

/-- An engine at W = 64 with the steps `stream` to come and `agent` at the turn. -/
def st64 (e : Engine 64) (stream : List (Event 64)) (agent : Agent) : State :=
  { width := .w64, engine := e, stream := stream, agent := agent, reply := none }

/-- The running command of `busy7` at the engine's turn. -/
def turn7 (c : Command) (n a b : Word 64) : State := st64 (busy7 c n a b) [] .engine

/-- W = 16, n = 161: 95_test_vectors.md, row C-21: R = 256, X = 8, NPRIME = 0x9f, R2 = 9, RANGE_WARN. -/
def turn161 (a b : Word 16) : State where
  width := .w16
  engine :=
    { Engine.initial 16 with
      cfgN := 161
      r := 256
      x := 8
      nprime := 0x9f
      r2 := 9
      status := 0x49
      phase := .busy
      snap := { op := .mul, n := 161, a := a, b := b } }
  stream := []
  agent := .engine
  reply := none

/-! ## Well-formedness and decoding -/

/-- W = 16: 65536 is not "of at most W bits" (30_encoding.md R86). -/
theorem test_wide_data_is_refused : (Instr.portWrite .n 65536).wellFormed .w16 = false := by decide

theorem test_widest_data_is_admitted : (Instr.portWrite .n 65535).wellFormed .w16 = true := by decide

/-- 30_encoding.md R83: opcode 0x00. -/
theorem test_decode_nop : decodeTableWord 64 0x0000000000000000 = some .nop := by decide

/-- 30_encoding.md R83: opcode 0x01. -/
theorem test_decode_config : decodeTableWord 16 0x0001 = some .config := by decide

/-- 30_encoding.md R83: opcode 0x02. -/
theorem test_decode_mul : decodeTableWord 32 0x00000002 = some .mul := by decide

/-- 30_encoding.md R83: opcode 0x03. -/
theorem test_decode_redc : decodeTableWord 128 0x3 = some .redc := by decide

/-- 30_encoding.md R81: the opcode field alone, the reserved bits 0. -/
theorem test_decode_opcode_alone : decodeTableWord 8 0x02 = some .mul := by decide

/-- 30_encoding.md R84: opcode 0x04 is illegal. -/
theorem test_decode_illegal : decodeTableWord 64 0x04 = none := by decide

/-- 30_encoding.md R84: a reserved bit set. -/
theorem test_decode_reserved : decodeTableWord 64 0x8000000000000001 = none := by decide

/-- 95_test_vectors.md P-2: `RD PARAMS`. -/
theorem test_decode_portRead : decodeTableWord 72 0x0b0000000000000000 = some (.portRead .params) := by decide

/-- 95_test_vectors.md P-5: `WR A, M64`. -/
theorem test_decode_portWrite :
    decodeTableWord 72 0x13ffffffffffffffff = some (.portWrite .a 0xffffffffffffffff) := by decide

/-- 30_encoding.md R80 at W = 16: `we` is bit 20, `idx` bits 19:16. -/
theorem test_decode_portWrite_16 : decodeTableWord 21 0x1f8001 = some (.portWrite .reserved15 0x8001) := by decide

/-! ## Single steps -/

/-- 40_host_port.md R104: after reset, NOP ends with STATUS = 0x2. -/
theorem test_nop_completes :
    after (exec .nop (st64 { Engine.initial 64 with status := 0x1, phase := .busy } [] .engine)) .status = some 0x2 := by
  decide

/-- 60_exceptions.md R208, 40_host_port.md R104: NOP is accepted unconfigured and clears CMD_ERR and ERRCODE. -/
theorem test_nop_is_accepted :
    after (exec .nop (st64 { Engine.initial 64 with status := 0x4004 } [] (.host 0))) .status = some 0x1 := by decide

/-- 41_configure.md R134: N = 7 at W = 64 gives (7, 8, 3, 1, 1) and STATUS = 0x000A. -/
theorem test_config_completes :
    [Reg.cfgN, .r, .x, .nprime, .r2, .status].map (after (exec .config (turn7 .config 7 0 0))) =
      [some 7, some 8, some 3, some 1, some 1, some 0xA] := by decide +kernel

/-- 41_configure.md R134: n = 0 gives R = 1, X = 0, NPRIME = 0, R2 = 1 with MOD_EVEN and MOD_ZERO. -/
theorem test_config_of_zero :
    [Reg.cfgN, .r, .x, .nprime, .r2, .status].map (after (exec .config (turn7 .config 0 0 0))) =
      [some 0, some 1, some 0, some 0, some 1, some 0x3A] := by decide +kernel

/-- 95_test_vectors.md S1: 2·5 mod 7 = 3, OVF = 0. -/
theorem test_mul_completes :
    [Reg.result, .status].map (after (exec .mul (turn7 .mul 7 2 5))) = [some 3, some 0xA] := by decide +kernel

/-- 43_multiply.md R181: W = 16, n = 161, a = b = 22: RESULT = 0 with OVF = 1. -/
theorem test_mul_wraps :
    [Reg.result, .status].map (after (exec .mul (turn161 22 22))) = [some 0, some 0x14A] := by decide +kernel

/-- 42_redc.md R162: T = 63 gives 7, not reduced below n, OVF = 0. -/
theorem test_redc_completes :
    [Reg.result, .status].map (after (exec .redc (turn7 .redc 7 63 0))) = [some 7, some 0xA] := by decide +kernel

/-- 42_redc.md R162: T = 2^64 - 1 gives 6 with OVF = 1. -/
theorem test_redc_wraps :
    [Reg.result, .status].map (after (exec .redc (turn7 .redc 7 0xffffffffffffffff 0))) = [some 6, some 0x10A] := by
  decide +kernel

/-- 95_test_vectors.md P-2: PARAMS reads 64. -/
theorem test_portRead_params : replyOf (exec (.portRead .params) State.reset) = some 64 := by decide

/-- 95_test_vectors.md P-3: CMD reads 0. -/
theorem test_portRead_cmd : replyOf (exec (.portRead .cmd) State.reset) = some 0 := by decide

/-- 40_host_port.md R101: `WR A, 123` makes `x[A] = 123`. -/
theorem test_portWrite_a : after (exec (.portWrite .a 123) State.reset) .a = some 123 := by decide

/-- 60_exceptions.md R205: MUL right after reset is rejected, STATUS = 0x4004 (95_test_vectors.md, conventions). -/
theorem test_portWrite_cmd : after (exec (.portWrite .cmd 2) State.reset) .status = some 0x4004 := by decide

/-! ## For each statement with hypotheses, an instance that meets them -/

theorem witness_engine7_spec : SpecInvariant engine7 := by constructor <;> decide

theorem witness_engine7_consistent : Consistent engine7 := by constructor <;> decide +kernel

theorem witness_busy7_consistent (c : Command) : Consistent (busy7 c 7 2 5) := by
  cases c <;> constructor <;> decide +kernel

/-- For DecodeOfEncodeIsTheInstruction, HostFormDecodes and TableWordIsTheNextStep. -/
theorem witness_wellFormed :
    Instr.nop.wellFormed .w16 = true ∧ (Instr.portRead .reserved15).wellFormed .w128 = true ∧
      (Instr.portWrite .cmd (2 ^ 128 - 1)).wellFormed .w128 = true := by decide

/-- For PortFieldsAreReadInPlace and PortWriteStoresTheOperand: the widest data, and each register of the clauses. -/
theorem witness_widest_data : 2 ^ 16 - 1 < 2 ^ Width.w16.bits ∧ Reg.a ≠ Reg.n ∧ Reg.params ≠ Reg.b := by decide

/-- For StepRunsTheDecodedTransaction. -/
theorem witness_transaction_next :
    (st64 engine7 [.port 1 0x120000000000000007, .complete] (.host 0)).stream = .port 1 0x120000000000000007 :: [.complete] :=
  rfl

/-- For StepRunsTheAcceptedCommand: both ends of the stream. -/
theorem witness_completion_next :
    (st64 (busy7 .mul 7 2 5) [.complete] (.host 0)).engine.phase = .busy ∧
      (st64 (busy7 .mul 7 2 5) [.complete] (.host 0)).stream = .complete :: [] ∧ (turn7 .mul 7 2 5).stream = [] :=
  ⟨rfl, rfl, rfl⟩

/-- For IdleEngineStaysAsItIs: both cases. -/
theorem witness_idle :
    (st64 engine7 [] (.host 0)).engine.phase = .idle ∧ (st64 engine7 [] (.host 0)).stream = [] ∧
      (st64 engine7 [.complete] (.host 0)).stream = .complete :: [] := ⟨rfl, rfl, rfl⟩

/-- For PortWriteElsewhereIsIgnored: the first and the last such index. -/
theorem witness_elsewhere :
    ∀ reg ∈ [Reg.status, .reserved15], reg ≠ .cmd ∧ reg ≠ .n ∧ reg ≠ .a ∧ reg ≠ .b := by decide

/-- For AcceptanceTakesTheSnapshot: a command that needs a configuration, and one that does not. -/
theorem witness_acceptance :
    engine7.flag .busy = false ∧ engine7.flag .cfgValid = true ∧ (Engine.initial 64).flag .busy = false ∧
      ¬(Command.config = .mul ∨ Command.config = .redc) := by decide

/-- For RejectionReportsTheFirstCause: values at the limits of each cause. -/
theorem witness_rejection :
    (Engine.initial 64).flag .busy = false ∧ (Engine.initial 64).flag .cfgValid = false ∧ engine7.flag .busy = false ∧
      (∀ v ∈ [4, 255, 256, 2 ^ 64 - 1], v < 2 ^ Width.w64.bits ∧ 4 ≤ v) ∧
      ∀ v ∈ [2, 3], v < 2 ^ Width.w64.bits ∧ 2 ≤ v := by decide

/-- For BusyRejectionLeavesTheRunningCommand, AcceptedCommandCompletes and CommandWhileBusyHasBothOutcomes. -/
theorem witness_busy :
    (turn7 .mul 7 2 5).engine.flag .busy = true ∧ (turn7 .mul 7 2 5).engine.phase = .busy ∧
      Event.reset ∉ (turn7 .mul 7 2 5).stream ∧ (turn7 .mul 7 2 5).engine.flag .cfgValid = true := by decide

/-- For CommandInAHostsTurnIsItsRequest. -/
theorem witness_hosts_turn : State.reset.agent = .host 0 := rfl

/-- For NopCompletes, ConfigCompletes, RedcCompletes, MulCompletes and CompletionIgnoresTheLiveOperands. -/
theorem witness_completing (c : Command) : (turn7 c 7 2 5).completing c := ⟨rfl, rfl, rfl⟩

/-- For ReconfiguringTheSameModulusChangesNothing. -/
theorem witness_reconfiguring :
    Consistent (turn7 .config 7 2 5).engine ∧ (turn7 .config 7 2 5).completing .config ∧
      (turn7 .config 7 2 5).engine.flag .cfgValid = true ∧
      (turn7 .config 7 2 5).engine.snap.n = (turn7 .config 7 2 5).engine.cfgN :=
  ⟨witness_busy7_consistent .config, witness_completing .config, by decide, rfl⟩

/-- For InverseSolverWrapIsHarmless and InverseSolverGivesTheInverse: the largest exponent, an odd modulus, and its
inverse 1 below 2^3. -/
theorem witness_inverse :
    Width.w16.bits ≤ Width.w16.bits ∧ (65535#16).toNat % 2 = 1 ∧ (7#16).toNat % 2 = 1 ∧ 1 < 2 ^ 3 ∧
      (7#16).toNat * 1 % 2 ^ 3 = 2 ^ 3 - 1 := by decide

/-- For ConversionConstantIsRSquared: n = 1 fits; n = 2^15 does not; n = 31415 squares with a wrap (41_configure.md
R132). -/
theorem witness_conversion :
    (radix 1#16).1 < 16 ∧ (r2calc 1#16 (radix 1#16).2).2 = false ∧ (radix 32768#16).1 = 16 ∧
      (r2calc 31415#16 (radix 31415#16).2).2 = true := by decide +kernel

/-- For ConfigurationFlagsDescribeTheModulus: each implication has a modulus. -/
theorem witness_flags :
    (configure 0#16).2.modZero = true ∧ (configure 32768#16).2.radixOvf = true ∧
      (configure 31415#16).2.cfgOvf = true := by decide +kernel

/-- For RedcReducesExactly: T = 55 = n·r - 1 and T = 63 at n = 7 (42_redc.md R162), n at both limits. -/
theorem witness_redc :
    (7#64).toNat % 2 = 1 ∧ (7#64).toNat < 2 ^ (Width.w64.bits / 2 - 1) ∧ (redc (configure 7#64).1 55).2 = false ∧
      (55#64).toNat < 7 * (configure 7#64).1.r.toNat ∧ (redc (configure 7#64).1 63).2 = false ∧
      (32767#16).toNat % 2 = 1 ∧ (32767#16).toNat < 2 ^ (Width.w16.bits - 1) := by decide +kernel

/-- For MulMultipliesModuloN: the largest odd modulus and operand of the safe domain at W = 16, and n = 169
outside it without a wrap (95_test_vectors.md M-17, S4). -/
theorem witness_mul :
    (127#16).toNat % 2 = 1 ∧ (127#16).toNat < 2 ^ (Width.w16.bits / 2 - 1) ∧ (126#16).toNat < (127#16).toNat ∧
      (169#16).toNat % 2 = 1 ∧ (mulseq (configure 169#16).1 (configure 169#16).2.cfgOvf 11 18).2 = false := by
  decide +kernel

/-- For MulOnTheMachineIsExactInTheSafeDomain. -/
theorem witness_mul_on_the_machine :
    Consistent (turn7 .mul 7 2 5).engine ∧ (turn7 .mul 7 2 5).completing .mul ∧
      (turn7 .mul 7 2 5).engine.flag .modEven = false ∧ (turn7 .mul 7 2 5).engine.flag .rangeWarn = false ∧
      (turn7 .mul 7 2 5).engine.snap.a.toNat < (turn7 .mul 7 2 5).engine.cfgN.toNat ∧
      (turn7 .mul 7 2 5).engine.snap.b.toNat < (turn7 .mul 7 2 5).engine.cfgN.toNat :=
  ⟨witness_busy7_consistent .mul, witness_completing .mul, by decide, by decide, by decide, by decide⟩

/-- For CornerCaseModuli: 0, 1 and a power of two. -/
theorem witness_corner_cases : (0#16 : Word 16) = 0 ∧ (1#16 : Word 16) = 1 ∧ (32768#16).toNat = 2 ^ 15 := by decide

/-- For WidthNeverChanges, ReducerChangesOnlyByConfigOrReset, ResultChangesOnlyByMulRedcOrReset,
OperandsChangeOnlyByTheHostOrReset, StepKeepsTheSpecInvariant and StepKeepsConsistency: a command request by a host. -/
theorem witness_request_step :
    let s := st64 engine7 [.port 0 0x100000000000000002] (.host 0)
    SpecInvariant s.engine ∧ Consistent s.engine ∧ ¬s.nextIsReset ∧ (∀ c, ¬s.nextCompletes c) ∧
      (∀ reg, reg = .n ∨ reg = .a ∨ reg = .b → ¬s.nextWrites reg) ∧
      (nextOf (step s)).map (·.engine.phase) = some .busy := by
  refine ⟨witness_engine7_spec, witness_engine7_consistent, (by intro h; cases h), ?_, ?_, by decide⟩
  · rintro c ⟨h, -⟩
    cases h
  · rintro reg hreg ⟨h, t, rest, v, hs, hd⟩
    cases hs
    have : decodePort (0x100000000000000002 : PortWord 64) = .portWrite .cmd 2 := by decide
    cases this.symm.trans hd
    rcases hreg with h | h | h <;> cases h

/-- For IdleSnapshotIsNeverRead: both snapshots, and a step that accepts a command. -/
theorem witness_idle_snapshot :
    let s := st64 engine7 [.port 0 0x100000000000000002] (.host 0)
    let s' := { s with engine := { s.engine with snap := { op := .redc, n := 1, a := 2, b := 3 } } }
    s.engine.phase = .idle ∧ nextOf (step s) = nextOf (step s') ∧
      (nextOf (step s)).map (·.engine.phase) = some .busy := by decide

/-- For ResetClearsEveryRegister and the first clause of ResetAbandonsTheRunningCommand. -/
theorem witness_reset :
    let s := st64 (busy7 .config 7 2 5) [.reset, .complete] (.host 0)
    s.engine.phase = .busy ∧ s.stream = .reset :: .complete :: [] := ⟨rfl, rfl⟩

/-- For the second clause of ResetAbandonsTheRunningCommand: the word is the write of CONFIG to CMD. -/
theorem witness_reset_after_request :
    (st64 engine7 [.port 0 0x100000000000000001, .reset, .complete] (.host 0)).stream =
      .port 0 0x100000000000000001 :: .reset :: .complete :: [] := rfl

/-- For ReachableStatesMeetTheSpecInvariant: two steps from reset, a request of NOP and its completion. -/
theorem witness_reachable :
    after (run 2 (State.initial .w64 [.port 0 0x100000000000000000, .complete])) .status = some 2 := by decide

end Sys2Proof.Tests
end

namespace Sys2Proof.Machine

/-! ## The width of the build (00_scope.md R5) -/

/-- Settles O36: every next state a step can answer is an update of the present one in fields other than
the width (`step_cases`). -/
theorem widthNeverChanges : Obligations.WidthNeverChanges := by
  intro s t hstep
  obtain ⟨e, rest, who, reply, ht, -⟩ := step_cases hstep
  rw [ht]

end Sys2Proof.Machine

namespace Sys2Proof.Machine

/-! ## STATUS, field by field, after each of its updates -/

/-- A rejection sets CMD_ERR and writes no other flag (60_exceptions.md R207). -/
@[simp] theorem getFlag_rejectStatus {w : Width} (v : Word w.bits) (cause : CmdError) (f : Flag) :
    getFlag (rejectStatus v cause) f = if f = .cmdErr then true else getFlag v f := by
  simp only [rejectStatus, getFlag_putErrcode, getFlag_putFlag]

@[simp] theorem getErrcode_rejectStatus {w : Width} (v : Word w.bits) (cause : CmdError) :
    getErrcode (rejectStatus v cause) = errorCode cause := getErrcode_putErrcode _ _

/-- An acceptance sets BUSY, clears DONE and CMD_ERR and writes no other flag (40_host_port.md R102). -/
@[simp] theorem getFlag_acceptStatus {w : Width} (v : Word w.bits) (f : Flag) :
    getFlag (acceptStatus v) f =
      if f = .cmdErr then false else if f = .done then false else if f = .busy then true else getFlag v f := by
  simp only [acceptStatus, getFlag_putErrcode, getFlag_putFlag]

@[simp] theorem getErrcode_acceptStatus {w : Width} (v : Word w.bits) : getErrcode (acceptStatus v) = 0 :=
  getErrcode_putErrcode _ _

/-- The common completion sets DONE, clears BUSY and writes no other flag (40_host_port.md R103). -/
@[simp] theorem getFlag_finishStatus {w : Width} (v : Word w.bits) (f : Flag) :
    getFlag (finishStatus v) f = if f = .done then true else if f = .busy then false else getFlag v f := by
  simp only [finishStatus, getFlag_putFlag]

@[simp] theorem getErrcode_finishStatus {w : Nat} (v : Word w) : getErrcode (finishStatus v) = getErrcode v := by
  simp only [finishStatus, getErrcode_putFlag]

/-- CONFIG sets CFG_VALID, writes the five flags it computed and OVF, which gets CFG_OVF (41_configure.md R134). -/
@[simp] theorem getFlag_configStatus {w : Width} (v : Word w.bits) (c : CfgFlags) (f : Flag) :
    getFlag (configStatus v c) f =
      match f with
      | .busy | .done | .cmdErr => getFlag v f
      | .cfgValid => true
      | .modEven => c.modEven
      | .modZero => c.modZero
      | .rangeWarn => c.rangeWarn
      | .radixOvf => c.radixOvf
      | .ovf | .cfgOvf => c.cfgOvf := by
  cases f <;> simp [configStatus]

@[simp] theorem getErrcode_configStatus {w : Nat} (v : Word w) (c : CfgFlags) :
    getErrcode (configStatus v c) = getErrcode v := by
  simp only [configStatus, getErrcode_putFlag]

/-! ## The bits of STATUS that 10_state.md R23 reserves -/

/-- Bits 10, 11 and every bit from 16 on are 0 (10_state.md R23, the last item of R49). -/
def ReservedClear {w : Nat} (v : Word w) : Prop := ∀ i, i = 10 ∨ i = 11 ∨ 16 ≤ i → v.getLsbD i = false

/-- The reserved bits as `SpecInvariant` writes them. -/
theorem reservedClear_iff {w : Nat} (v : Word w) :
    ReservedClear v ↔ v.extractLsb' 10 2 = 0 ∧ v.toNat < 2 ^ 16 := by
  constructor
  · intro h
    constructor
    · apply BitVec.eq_of_getLsbD_eq
      intro i hi
      rw [BitVec.getLsbD_extractLsb', h (10 + i) (by omega)]
      simp
    · exact Nat.lt_pow_two_of_testBit _ fun i hi => h i (.inr (.inr hi))
  · rintro ⟨hmid, hhigh⟩ i hi
    have bit (k : Nat) (hk : k < 2) : v.getLsbD (10 + k) = false := by
      have := congrArg (fun u => u.getLsbD k) hmid
      simpa [BitVec.getLsbD_extractLsb', hk] using this
    rcases hi with rfl | rfl | hi
    · exact bit 0 (by omega)
    · exact bit 1 (by omega)
    · exact Nat.testBit_lt_two_pow (hhigh.trans_le (Nat.pow_le_pow_right (by omega) hi))

theorem ReservedClear.putFlag {w : Width} {v : Word w.bits} (h : ReservedClear v) (f : Flag) (b : Bool) :
    ReservedClear (putFlag v f b) := by
  intro i hi
  have := f.pos_le
  rw [getLsbD_putFlag, if_neg (by omega), h i hi]

theorem ReservedClear.putErrcode {w : Width} {v : Word w.bits} (h : ReservedClear v) (c : BitVec 4) :
    ReservedClear (putErrcode v c) := by
  intro i hi
  rw [getLsbD_putErrcode, if_neg (by omega), h i hi]

theorem ReservedClear.rejectStatus {w : Width} {v : Word w.bits} (h : ReservedClear v) (cause : CmdError) :
    ReservedClear (rejectStatus v cause) := (h.putFlag _ _).putErrcode _

theorem ReservedClear.acceptStatus {w : Width} {v : Word w.bits} (h : ReservedClear v) :
    ReservedClear (acceptStatus v) := (((h.putFlag _ _).putFlag _ _).putFlag _ _).putErrcode _

theorem ReservedClear.finishStatus {w : Width} {v : Word w.bits} (h : ReservedClear v) :
    ReservedClear (finishStatus v) := (h.putFlag _ _).putFlag _ _

theorem ReservedClear.configStatus {w : Width} {v : Word w.bits} (h : ReservedClear v) (c : CfgFlags) :
    ReservedClear (configStatus v c) := by
  unfold Machine.configStatus
  exact ((((((h.putFlag _ _).putFlag _ _).putFlag _ _).putFlag _ _).putFlag _ _).putFlag _ _).putFlag _ _

theorem ReservedClear.zero {w : Nat} : ReservedClear (0 : Word w) := fun _ _ => BitVec.getLsbD_zero

end Sys2Proof.Machine

namespace Sys2Proof.Machine

/-! ## Flags, ERRCODE, reducer and configuration flags after each operation of the engine -/

section
variable {w : Width} (e : Engine w.bits)

@[simp] theorem Engine.reject_flag (cause : CmdError) (f : Flag) :
    (e.reject cause).flag f = if f = .cmdErr then true else e.flag f := getFlag_rejectStatus _ _ _

@[simp] theorem Engine.reject_errcode (cause : CmdError) : (e.reject cause).errcode = errorCode cause :=
  getErrcode_rejectStatus _ _

@[simp] theorem Engine.reject_reducer (cause : CmdError) : (e.reject cause).reducer = e.reducer := rfl

@[simp] theorem Engine.reject_configFlags (cause : CmdError) : (e.reject cause).configFlags = e.configFlags := by
  simp [Engine.configFlags]

@[simp] theorem Engine.accept_flag (c : Command) (f : Flag) :
    (e.accept c).flag f =
      if f = .cmdErr then false else if f = .done then false else if f = .busy then true else e.flag f :=
  getFlag_acceptStatus _ _

@[simp] theorem Engine.accept_errcode (c : Command) : (e.accept c).errcode = 0 := getErrcode_acceptStatus _

@[simp] theorem Engine.accept_reducer (c : Command) : (e.accept c).reducer = e.reducer := rfl

@[simp] theorem Engine.accept_configFlags (c : Command) : (e.accept c).configFlags = e.configFlags := by
  simp [Engine.configFlags]

@[simp] theorem Engine.finish_flag (f : Flag) :
    e.finish.flag f = if f = .done then true else if f = .busy then false else e.flag f := getFlag_finishStatus _ _

@[simp] theorem Engine.finish_errcode : e.finish.errcode = e.errcode := getErrcode_finishStatus _

@[simp] theorem Engine.finish_reducer : e.finish.reducer = e.reducer := rfl

@[simp] theorem Engine.finish_configFlags : e.finish.configFlags = e.configFlags := by simp [Engine.configFlags]

@[simp] theorem Engine.nopComplete_flag (f : Flag) :
    e.nopComplete.flag f = if f = .ovf then false else e.flag f := getFlag_putFlag _ _ _ _

@[simp] theorem Engine.redcComplete_flag (f : Flag) :
    e.redcComplete.flag f = if f = .ovf then (redc e.reducer e.snap.a).2 else e.flag f := getFlag_putFlag _ _ _ _

@[simp] theorem Engine.mulComplete_flag (f : Flag) :
    e.mulComplete.flag f =
      if f = .ovf then (mulseq e.reducer (e.flag .cfgOvf) e.snap.a e.snap.b).2 else e.flag f :=
  getFlag_putFlag _ _ _ _

@[simp] theorem Engine.configComplete_flag (f : Flag) :
    e.configComplete.flag f = getFlag (configStatus e.status (configure e.snap.n).2) f := rfl

@[simp] theorem Engine.configComplete_reducer : e.configComplete.reducer = (configure e.snap.n).1 := rfl

@[simp] theorem Engine.configComplete_configFlags : e.configComplete.configFlags = (configure e.snap.n).2 := by
  simp [Engine.configFlags]

@[simp] theorem Engine.resetInput_flag (f : Flag) : e.resetInput.flag f = false := BitVec.getLsbD_zero

@[simp] theorem Engine.resetInput_errcode : e.resetInput.errcode = 0 := by
  simp [Engine.errcode_eq, getErrcode]

end

/-! ## What every command's own completion leaves unchanged, and what all but one leave -/

section
variable {w : Width} (c : Command) (e : Engine w.bits)

@[simp] theorem commitOf_n : (commitOf c e).n = e.n := by cases c <;> rfl
@[simp] theorem commitOf_a : (commitOf c e).a = e.a := by cases c <;> rfl
@[simp] theorem commitOf_b : (commitOf c e).b = e.b := by cases c <;> rfl
@[simp] theorem commitOf_phase : (commitOf c e).phase = e.phase := by cases c <;> rfl
@[simp] theorem commitOf_snap : (commitOf c e).snap = e.snap := by cases c <;> rfl

@[simp] theorem commitOf_errcode : (commitOf c e).errcode = e.errcode := by
  cases c <;> simp [commitOf, Engine.errcode_eq]

/-- No completion writes BUSY, DONE or CMD_ERR on its own: the common completion writes the first two
(40_host_port.md R103). -/
theorem commitOf_flag_of_control {f : Flag} (hf : f = .busy ∨ f = .done ∨ f = .cmdErr) :
    (commitOf c e).flag f = e.flag f := by
  rcases hf with rfl | rfl | rfl <;> cases c <;> simp [commitOf, Engine.flag_eq]

/-- Every completion keeps the reserved bits of STATUS clear. -/
theorem commitOf_reservedClear (h : ReservedClear e.status) : ReservedClear (commitOf c e).status := by
  cases c
  case config => exact h.configStatus _
  all_goals exact h.putFlag _ _

variable {c}

/-- Only CONFIG writes the reducer (10_state.md R44). -/
theorem commitOf_reducer (hc : c ≠ .config) : (commitOf c e).reducer = e.reducer := by
  cases c
  case config => exact absurd rfl hc
  all_goals rfl

/-- A completion other than CONFIG's writes no flag of STATUS but OVF. -/
theorem commitOf_flag (hc : c ≠ .config) {f : Flag} (hf : f ≠ .ovf) : (commitOf c e).flag f = e.flag f := by
  cases c
  case config => exact absurd rfl hc
  all_goals simp [commitOf, hf]

theorem commitOf_configFlags (hc : c ≠ .config) : (commitOf c e).configFlags = e.configFlags := by
  simp [Engine.configFlags, commitOf_flag e hc]

/-- Only MUL and REDC write RESULT (10_state.md R37). -/
theorem commitOf_result (hc : needsConfig c = false) : (commitOf c e).result = e.result := by
  cases c
  case nop | config => rfl
  all_goals cases hc

end

/-! ## What leaves the configuration as it is (10_state.md R44) -/

/-- The reducer, CFG_VALID and the configuration flags agree. -/
structure SameConfiguration {w : Nat} (e' e : Engine w) : Prop where
  reducer : e'.reducer = e.reducer
  cfgValid : e'.flag .cfgValid = e.flag .cfgValid
  configFlags : e'.configFlags = e.configFlags

theorem SameConfiguration.refl {w : Nat} (e : Engine w) : SameConfiguration e e := ⟨rfl, rfl, rfl⟩

theorem SameConfiguration.trans {w : Nat} {e'' e' e : Engine w} (h' : SameConfiguration e'' e')
    (h : SameConfiguration e' e) : SameConfiguration e'' e :=
  ⟨h'.reducer.trans h.reducer, h'.cfgValid.trans h.cfgValid, h'.configFlags.trans h.configFlags⟩

theorem Engine.storeReg_sameConfiguration {w : Nat} (e : Engine w) (reg : Reg) (v : Word w) :
    SameConfiguration (e.storeReg reg v) e := by
  rw [Engine.storeReg_eq]
  exact ⟨rfl, rfl, rfl⟩

section
variable {w : Width} (e : Engine w.bits)

theorem Engine.reject_sameConfiguration (cause : CmdError) : SameConfiguration (e.reject cause) e :=
  ⟨rfl, by simp, by simp⟩

theorem Engine.accept_sameConfiguration (c : Command) : SameConfiguration (e.accept c) e := ⟨rfl, by simp, by simp⟩

theorem Engine.finish_sameConfiguration : SameConfiguration e.finish e := ⟨rfl, by simp, by simp⟩

theorem commitOf_sameConfiguration {c : Command} (hc : c ≠ .config) : SameConfiguration (commitOf c e) e :=
  ⟨commitOf_reducer e hc, commitOf_flag e hc (by decide), commitOf_configFlags e hc⟩

end

/-! ## One induction for every invariant of the engine -/

/-- What both a rejection and an acceptance keep, a command request keeps (40_host_port.md R102). -/
theorem Engine.commandRequest_induction {w : Nat} {P : Engine w → Prop} (e : Engine w) (v : Word w)
    (reject : ∀ cause, P (e.reject cause))
    (accept : ∀ c, (needsConfig c = true → e.flag .cfgValid = true) → P (e.accept c)) :
    P (e.commandRequest v) := by
  obtain ⟨-, hq⟩ | ⟨-, cause, -, hq⟩ | ⟨-, c, -, -, -, hq⟩ | ⟨-, c, -, hc, hq⟩ := e.commandRequest_cases v
  · rw [hq]; exact reject _
  · rw [hq]; exact reject _
  · rw [hq]; exact reject _
  · rw [hq]; exact accept c hc

/-- What a store, a rejection, an acceptance, the completion of the running command and reset keep, every step
keeps. -/
theorem step_preserves (P : ∀ w : Width, Engine w.bits → Prop)
    (store : ∀ w e reg v, P w e → P w (e.storeReg reg v))
    (reject : ∀ w e cause, P w e → P w (e.reject cause))
    (accept : ∀ w e c, P w e → (needsConfig c = true → e.flag .cfgValid = true) → P w (e.accept c))
    (complete : ∀ w e, P w e → e.phase = .busy → P w (commitOf e.snap.op e).finish)
    (reset : ∀ w (e : Engine w.bits), P w e.resetInput)
    {s t : State} (hs : P s.width s.engine) (hstep : step s = .next t) : P t.width t.engine := by
  obtain ⟨e, rest, who, reply, rfl, hcase⟩ := step_cases hstep
  obtain ⟨rfl, -⟩ | ⟨host, word, reg, v, -, -, -, rfl⟩ | ⟨host, word, v, -, -, rfl⟩ | ⟨hp, -, rfl⟩ | ⟨-, rfl⟩ := hcase
  · exact hs
  · exact store _ _ reg _ hs
  · exact s.engine.commandRequest_induction _ (fun cause => reject _ _ cause hs) fun c => accept _ _ c hs
  · exact complete _ _ hs hp
  · exact reset _ _

/-- What holds of a state and is kept by every step holds after any number of steps. -/
theorem run_preserves {P : State → Prop} (keep : ∀ s t, P s → step s = .next t → P t) (k : Nat) {s t : State}
    (hs : P s) (hrun : run k s = .next t) : P t := by
  induction k generalizing s with
  | zero =>
    cases hrun
    exact hs
  | succ k ih =>
    rw [run] at hrun
    cases hstep : step s with
    | next u => exact ih (keep s u hs hstep) (by simpa [hstep] using hrun)
    | fault f => cases f
    | refused r => simp [hstep] at hrun

/-! ## Consistency -/

theorem Consistent.storeReg {w : Nat} {e : Engine w} (h : Consistent e) (reg : Reg) (v : Word w) :
    Consistent (e.storeReg reg v) := by
  rw [Engine.storeReg_eq]
  exact ⟨h.busy_iff_phase, h.configured, h.unconfigured, h.running_configured, h.error_code⟩

section
variable {w : Width} {e : Engine w.bits}

/-- A rejection writes CMD_ERR and ERRCODE together, and every cause has a code from 1 to 4 (60_exceptions.md
R201). -/
theorem Consistent.reject (h : Consistent e) (cause : CmdError) : Consistent (e.reject cause) where
  busy_iff_phase := by simpa using h.busy_iff_phase
  configured := by simpa using h.configured
  unconfigured := by simpa using h.unconfigured
  running_configured := by simpa using h.running_configured
  error_code := by cases cause <;> simp [errorCode]

/-- An acceptance sets BUSY with the phase, clears CMD_ERR with ERRCODE, and accepts MUL and REDC only on a configured
reducer (40_host_port.md R102). -/
theorem Consistent.accept (h : Consistent e) {c : Command} (hc : needsConfig c = true → e.flag .cfgValid = true) :
    Consistent (e.accept c) where
  busy_iff_phase := by simp
  configured := by simpa using h.configured
  unconfigured := by simpa using h.unconfigured
  running_configured := by simpa using hc
  error_code := by simp

/-- The completion of the running command, before the common one: CONFIG writes the constants and flags of one
configuration, NOP only clears OVF, and MUL and REDC run only on a configured reducer. -/
theorem Consistent.commit (h : Consistent e) (hp : e.phase = .busy) : Consistent (commitOf e.snap.op e) where
  busy_iff_phase := by simpa [commitOf_flag_of_control] using h.busy_iff_phase
  configured := by
    by_cases hc : e.snap.op = .config
    · intro _
      simp only [hc, commitOf, Engine.configComplete_reducer, Engine.configComplete_configFlags]
      exact ⟨rfl, rfl⟩
    · have hn : (commitOf e.snap.op e).cfgN = e.cfgN := congrArg Reducer.cfgN (commitOf_reducer e hc)
      rw [commitOf_flag e hc (by decide), commitOf_reducer e hc, commitOf_configFlags e hc, hn]
      exact h.configured
  unconfigured := by
    intro hv
    cases hop : e.snap.op with
    | nop =>
      rw [hop] at hv
      obtain ⟨hred, hflags, hres, -⟩ := h.unconfigured (by simpa [commitOf] using hv)
      exact ⟨hred, (commitOf_configFlags e (by decide)).trans hflags, hres, by simp [commitOf]⟩
    | config => simp [hop, commitOf] at hv
    | mul | redc =>
      have hvalid := h.running_configured hp (by simp [hop, needsConfig])
      simp [hop, commitOf, hvalid] at hv
  running_configured := by
    simp only [commitOf_phase, commitOf_snap]
    intro _ hneeds
    have hc : e.snap.op ≠ .config := fun hc => by simp [hc, needsConfig] at hneeds
    rw [commitOf_flag e hc (by decide)]
    exact h.running_configured hp hneeds
  error_code := by simpa [commitOf_flag_of_control] using h.error_code

theorem Consistent.finish (h : Consistent e) : Consistent e.finish where
  busy_iff_phase := by simp
  configured := by simpa using h.configured
  unconfigured := by simpa using h.unconfigured
  running_configured := by simp
  error_code := by simpa using h.error_code

theorem Consistent.resetInput : Consistent e.resetInput where
  busy_iff_phase := by simp
  configured := by simp
  unconfigured := by simp [Engine.reducer, Engine.configFlags]
  running_configured := by simp
  error_code := by simp

end

/-- Settles O46: each of the five things a step can do to the engine keeps it consistent. -/
theorem stepKeepsConsistency : Obligations.StepKeepsConsistency := by
  intro s t hs hstep
  exact step_preserves (fun _ e => Consistent e) (fun _ _ reg v h => h.storeReg reg v)
    (fun _ _ cause h => h.reject cause) (fun _ _ _ h hc => h.accept hc) (fun _ _ h hp => (h.commit hp).finish)
    (fun _ _ => .resetInput) hs hstep

end Sys2Proof.Machine

namespace Sys2Proof.Machine

/-! ## RADIX (41_configure.md R130): the exponent is the size of the modulus in bits -/

theorem isRadixExp_size (n : Nat) : IsRadixExp n n.size := ⟨Nat.lt_size_self n, fun _ hy => Nat.size_le.2 hy⟩

/-- The search stops at the size when it starts no higher and may go that far. -/
theorem radixSearch_eq_size {n k x : Nat} (hx : x ≤ n.size) (hk : n.size ≤ x + k) : radixSearch n k x = n.size := by
  induction k generalizing x with
  | zero => exact Nat.le_antisymm hx hk
  | succ k ih =>
    rw [radixSearch]
    by_cases hle : 2 ^ x ≤ n
    · rw [if_pos hle]
      exact ih (Nat.lt_size.2 hle) (by omega)
    · rw [if_neg hle]
      exact Nat.le_antisymm hx (Nat.size_le.2 (Nat.lt_of_not_le hle))

theorem radixExp_eq_size {w : Nat} (n : Word w) : radixExp n = n.toNat.size :=
  radixSearch_eq_size (Nat.zero_le _) (by simpa using Nat.size_le.2 n.isLt)

theorem radix_fst {w : Nat} (n : Word w) : (radix n).1 = n.toNat.size := radixExp_eq_size n

theorem radix_snd_toNat {w : Nat} (n : Word w) : (radix n).2.toNat = 2 ^ (radix n).1 % 2 ^ w :=
  BitVec.toNat_ofNat _ _

theorem radix_fst_le {w : Nat} (n : Word w) : (radix n).1 ≤ w := by
  rw [radix_fst]
  exact Nat.size_le.2 n.isLt

theorem lt_two_pow_radix {w : Nat} (n : Word w) : n.toNat < 2 ^ (radix n).1 := by
  rw [radix_fst]
  exact Nat.lt_size_self _

/-- The radix does not fit exactly for the moduli of at least 2^(W-1) (10_state.md R39). -/
theorem radix_fst_eq_width_iff {w : Nat} (hw : 0 < w) (n : Word w) : (radix n).1 = w ↔ 2 ^ (w - 1) ≤ n.toNat := by
  have hle := radix_fst_le n
  rw [radix_fst] at hle ⊢
  rw [← Nat.lt_size]
  omega

/-- A radix that fits its register is there exactly. -/
theorem radix_snd_of_lt {w : Nat} {n : Word w} (h : (radix n).1 < w) : (radix n).2.toNat = 2 ^ (radix n).1 := by
  rw [radix_snd_toNat, Nat.mod_eq_of_lt (Nat.pow_lt_pow_right (by omega) h)]

/-- A radix of 2^W leaves 0 in its register (10_state.md R39). -/
theorem radix_snd_of_eq {w : Nat} {n : Word w} (h : (radix n).1 = w) : (radix n).2.toNat = 0 := by
  rw [radix_snd_toNat, h, Nat.mod_self]

/-- Half of the selected power is at most the modulus, 0 for n = 0. -/
theorem half_two_pow_radix_le {w : Nat} (n : Word w) : 2 ^ (radix n).1 / 2 ≤ n.toNat := by
  cases hx : (radix n).1 with
  | zero => simp
  | succ x =>
    have hlt : x < n.toNat.size := by
      rw [← radix_fst, hx]
      exact Nat.lt_succ_self x
    rw [Nat.pow_succ, Nat.mul_div_cancel _ (by decide)]
    exact Nat.lt_size.1 hlt

theorem radix_fst_of_zero {w : Nat} {n : Word w} (h : n.toNat = 0) : (radix n).1 = 0 := by
  rw [radix_fst, h, Nat.size_zero]

theorem bits_pos (w : Width) : 0 < w.bits := by
  have := sixteen_le_bits w
  omega

/-- The exponent fits register X of its build. -/
theorem ofNat_radix_toNat (w : Width) (n : Word w.bits) : (BitVec.ofNat w.bits (radix n).1).toNat = (radix n).1 := by
  rw [BitVec.toNat_ofNat, Nat.mod_eq_of_lt ((radix_fst_le n).trans_lt Nat.lt_two_pow_self)]

/-- Settles O26: the exponent is the size of n in bits, and the library's facts about sizes say the rest. -/
theorem radixIsTheSmallestPowerAbove : Obligations.RadixIsTheSmallestPowerAbove := by
  intro w n
  refine ⟨?_, radix_fst_le n, ?_, radix_fst_eq_width_iff (bits_pos w) n, radix_snd_toNat n⟩
  · rw [radix_fst]
    exact isRadixExp_size _
  · rw [radix_fst, Nat.size_eq_zero, BitVec.toNat_eq]
    rfl

/-! ## INVSOLVE (41_configure.md R131): first the wrap, then the loop on integers -/

/-- Halving a sum on W-bit words and on integers agrees on the low `k` bits when the summands agreed on one more, since
the bit lost by a wrap comes down to position W-1 only. -/
theorem half_add_wrap_mod {w k t t' n : Nat} (hk : k < w) (ht : t % 2 ^ (k + 1) = t' % 2 ^ (k + 1)) :
    (t + n) % 2 ^ w / 2 % 2 ^ k = (t' + n) / 2 % 2 ^ k := by
  have half (a : Nat) : a / 2 % 2 ^ k = a % 2 ^ (k + 1) / 2 := by
    rw [Nat.pow_succ', Nat.mod_mul_right_div_self]
  have hdvd : 2 ^ (k + 1) ∣ 2 ^ w := pow_dvd_pow 2 hk
  rw [half, half, Nat.mod_mod_of_dvd _ hdvd, Nat.add_mod t, ht, ← Nat.add_mod]

theorem getLsbD_zero_eq_decide {w : Nat} (v : Word w) : v.getLsbD 0 = decide (v.toNat % 2 = 1) := Nat.testBit_zero _

/-- An iteration with `tmp` even adds the modulus to `tmp` and `i` to the result. -/
theorem invIter_even {w : Nat} (n : Word w) {v : InvVars w} (h : v.tmp.toNat % 2 = 0) :
    invIter n v = { tmp := shr (v.tmp + n) 1, i := v.i * 2, np := v.np + v.i } := by
  simp [invIter, getLsbD_zero_eq_decide, h]

theorem invIter_odd {w : Nat} (n : Word w) {v : InvVars w} (h : v.tmp.toNat % 2 ≠ 0) :
    invIter n v = { tmp := shr v.tmp 1, i := v.i * 2, np := v.np } := by
  have : v.tmp.toNat % 2 = 1 := by omega
  simp [invIter, getLsbD_zero_eq_decide, this]

/-- The loop on W-bit words follows the loop on integers while as many low bits of `tmp` agree as iterations are left;
`j` iterations are done, so that `i` is 2^j. -/
theorem invLoop_np {w : Nat} (hw : 1 < w) (n : Word w) {k j tmp : Nat} {v : InvVars w} (hj : j + k ≤ w)
    (htmp : v.tmp.toNat % 2 ^ k = tmp % 2 ^ k) (hi : v.i.toNat = 2 ^ j % 2 ^ w) (hnp : v.np.toNat < 2 ^ j) :
    (invLoop n k v).np.toNat = invInt n.toNat k tmp (2 ^ j) v.np.toNat := by
  induction k generalizing j tmp v with
  | zero => rfl
  | succ k ih =>
    have hpow : 2 ^ j * 2 ≤ 2 ^ w := by
      rw [← Nat.pow_succ]
      exact Nat.pow_le_pow_right (by omega) (by omega)
    have hi' : v.i.toNat = 2 ^ j := by
      rw [hi, Nat.mod_eq_of_lt]
      have := Nat.two_pow_pos j
      omega
    have hidouble : (v.i * 2).toNat = 2 ^ (j + 1) % 2 ^ w := by
      rw [BitVec.toNat_mul, hi', Nat.pow_succ]
      simp
    have hbit : v.tmp.toNat % 2 = tmp % 2 := by
      have hdvd : 2 ∣ 2 ^ (k + 1) := dvd_pow_self 2 (by omega)
      rw [← Nat.mod_mod_of_dvd v.tmp.toNat hdvd, htmp, Nat.mod_mod_of_dvd _ hdvd]
    have half (n' : Nat) : (v.tmp.toNat + n') % 2 ^ w / 2 % 2 ^ k = (tmp + n') / 2 % 2 ^ k :=
      half_add_wrap_mod (by omega) htmp
    rw [invLoop, invInt, ← Nat.pow_succ]
    by_cases heven : v.tmp.toNat % 2 = 0
    · have hsum : (v.np + v.i).toNat = v.np.toNat + 2 ^ j := by
        rw [BitVec.toNat_add, hi', Nat.mod_eq_of_lt (by omega)]
      rw [invIter_even n heven, if_pos (hbit ▸ heven), ← hsum]
      exact ih (by omega) (by simpa [shr_toNat, hw] using half n.toNat) hidouble (by rw [hsum, Nat.pow_succ]; omega)
    · rw [invIter_odd n heven, if_neg (hbit ▸ heven)]
      refine ih (by omega) ?_ hidouble (by simp only; rw [Nat.pow_succ]; omega)
      simpa [shr_toNat, hw, Nat.mod_eq_of_lt v.tmp.isLt] using half 0

/-- The wrap of `tmp + n` never changes the result of INVSOLVE (41_configure.md R131). -/
theorem invsolve_toNat (w : Width) (n : Word w.bits) {x : Nat} (hx : x ≤ w.bits) :
    (invsolve n x).toNat = invInt n.toNat x 0 1 0 := by
  have hw : 1 < w.bits := by
    have := sixteen_le_bits w
    omega
  have := invLoop_np hw n (k := x) (j := 0) (tmp := 0) (v := { tmp := 0, i := 1, np := 0 }) (by omega) (by simp)
    (by simp) (by simp)
  simpa [invsolve] using this

/-- `k` iterations add fewer than 2^k times `i` to the result. -/
theorem invInt_lt (n : Nat) {k tmp i np : Nat} (hnp : np < i) : invInt n k tmp i np < i * 2 ^ k := by
  induction k generalizing tmp i np with
  | zero => simpa [invInt] using hnp
  | succ k ih =>
    have hk : i * 2 ^ (k + 1) = i * 2 * 2 ^ k := by ring
    rw [invInt, hk]
    split
    · exact ih (by omega)
    · exact ih (by omega)

/-- The invariant of the loop for an odd modulus: `n * np` is `i - 1` modulo `i`, with `tmp` the quotient; adding the
modulus makes `tmp` odd, so that each halving drops a 1. -/
theorem invInt_spec {n : Nat} (hn : n % 2 = 1) {k tmp i np : Nat} (hi : 1 ≤ i) (h : n * np = i * tmp + (i - 1)) :
    ∃ q, n * invInt n k tmp i np = i * 2 ^ k * q + (i * 2 ^ k - 1) := by
  induction k generalizing tmp i np with
  | zero => exact ⟨tmp, by simpa [invInt] using h⟩
  | succ k ih =>
    have hk : i * 2 ^ (k + 1) = i * 2 * 2 ^ k := by ring
    obtain ⟨j, rfl⟩ : ∃ j, i = j + 1 := ⟨i - 1, by omega⟩
    rw [invInt, hk]
    split
    next heven =>
      obtain ⟨q, hq⟩ : ∃ q, tmp + n = 2 * q + 1 := ⟨(tmp + n) / 2, by omega⟩
      have hdiv : (tmp + n) / 2 = q := by omega
      rw [hdiv]
      refine ih (by omega) ?_
      have : (j + 1) * 2 - 1 = 2 * j + 1 := by omega
      rw [this, Nat.mul_add, h]
      simp only [Nat.add_sub_cancel]
      linear_combination (j + 1) * hq
    next hodd =>
      obtain ⟨q, rfl⟩ : ∃ q, tmp = 2 * q + 1 := ⟨tmp / 2, by omega⟩
      have hdiv : (2 * q + 1) / 2 = q := by omega
      rw [hdiv]
      refine ih (by omega) ?_
      have : (j + 1) * 2 - 1 = 2 * j + 1 := by omega
      rw [this, h]
      simp only [Nat.add_sub_cancel]
      ring

theorem invsolve_lt (w : Width) (n : Word w.bits) {x : Nat} (hx : x ≤ w.bits) : (invsolve n x).toNat < 2 ^ x := by
  rw [invsolve_toNat w n hx]
  simpa using invInt_lt n.toNat (k := x) (tmp := 0) (i := 1) (np := 0) (by omega)

/-- For an odd modulus n·n' is -1 modulo 2^x (10_state.md R41). -/
theorem mul_invsolve_mod (w : Width) {n : Word w.bits} (hn : n.toNat % 2 = 1) {x : Nat} (hx : x ≤ w.bits) :
    n.toNat * (invsolve n x).toNat % 2 ^ x = 2 ^ x - 1 := by
  obtain ⟨q, hq⟩ := invInt_spec hn (k := x) (tmp := 0) (i := 1) (np := 0) (by omega) (by simp)
  have := Nat.two_pow_pos x
  rw [invsolve_toNat w n hx, hq, Nat.one_mul, Nat.mul_add_mod, Nat.mod_eq_of_lt (by omega)]

/-- Settles O28: the loop's invariant gives the inverse, and an odd number can be cancelled modulo a power of two. -/
theorem inverseSolverGivesTheInverse : Obligations.InverseSolverGivesTheInverse := by
  intro w n x hx
  refine ⟨invsolve_lt w n hx, fun hn => ⟨mul_invsolve_mod w hn hx, fun y hy hny => ?_⟩⟩
  have hcop : (2 ^ x).Coprime n.toNat := (Nat.coprime_two_left.2 (Nat.odd_iff.2 hn)).pow_left x
  have hmod : n.toNat * y ≡ n.toNat * (invsolve n x).toNat [MOD 2 ^ x] := hny.trans (mul_invsolve_mod w hn hx).symm
  exact (Nat.ModEq.cancel_left_of_coprime hcop hmod).eq_of_lt_of_lt hy (invsolve_lt w n hx)

end Sys2Proof.Machine

namespace Sys2Proof.Machine

/-! ## R2CALC (41_configure.md R132), on integers -/

/-- The residue that R2CALC squares: r mod n, and r itself for n = 0. -/
def radixResidue {w : Nat} (n : Word w) : Nat :=
  if n.toNat = 0 then (radix n).2.toNat else (radix n).2.toNat % n.toNat

theorem remz_radix_toNat {w : Nat} (n : Word w) : (remz (radix n).2 n).toNat = radixResidue n := remz_toNat _ _

/-- The square wraps exactly when it does not fit W bits. -/
theorem r2calc_snd {w : Nat} (n : Word w) :
    (r2calc n (radix n).2).2 = decide (2 ^ w ≤ radixResidue n * radixResidue n) := by
  simp only [r2calc, wrapsMul, remz_radix_toNat]

/-- The constant is the square, taken modulo 2^W and then modulo n. -/
theorem r2calc_fst_toNat {w : Nat} (n : Word w) :
    (r2calc n (radix n).2).1.toNat =
      if n.toNat = 0 then radixResidue n * radixResidue n % 2 ^ w
      else radixResidue n * radixResidue n % 2 ^ w % n.toNat := by
  simp only [r2calc, remz_toNat (_ * _), BitVec.toNat_mul, remz_radix_toNat]

theorem radixResidue_lt {w : Nat} {n : Word w} (h : n.toNat ≠ 0) : radixResidue n < n.toNat := by
  rw [radixResidue, if_neg h]
  exact Nat.mod_lt _ (Nat.pos_of_ne_zero h)

theorem radixResidue_of_zero {w : Width} {n : Word w.bits} (h : n.toNat = 0) : radixResidue n = 1 := by
  have hx : (radix n).1 = 0 := radix_fst_of_zero h
  rw [radixResidue, if_pos h, radix_snd_of_lt (hx ▸ bits_pos w), hx, Nat.pow_zero]

/-- A radix that does not fit leaves a residue of 0. -/
theorem radixResidue_of_eq {w : Nat} {n : Word w} (h : (radix n).1 = w) : radixResidue n = 0 := by
  simp [radixResidue, radix_snd_of_eq h]

/-- r² mod n, where the radix fits and the square does not wrap (10_state.md R42). -/
theorem r2calc_fst_of_no_wrap {w : Nat} {n : Word w} (hn : n.toNat ≠ 0) (hx : (radix n).1 < w)
    (hsq : (r2calc n (radix n).2).2 = false) :
    (r2calc n (radix n).2).1.toNat = (2 ^ (radix n).1) ^ 2 % n.toNat := by
  have hlt : radixResidue n * radixResidue n < 2 ^ w := by
    rw [r2calc_snd] at hsq
    exact Nat.lt_of_not_le (of_decide_eq_false hsq)
  rw [r2calc_fst_toNat, if_neg hn, Nat.mod_eq_of_lt hlt, radixResidue, if_neg hn, radix_snd_of_lt hx, ← Nat.mul_mod,
    Nat.pow_two]

/-- The square of a number below 2^(W/2) fits, so that only a modulus above it can make the square wrap. -/
theorem two_pow_half_lt_of_square_wraps (w : Width) {n : Word w.bits}
    (h : (r2calc n (radix n).2).2 = true) : 2 ^ (w.bits / 2) < n.toNat := by
  have hsq : 2 ^ w.bits ≤ radixResidue n * radixResidue n := by
    rw [r2calc_snd] at h
    exact of_decide_eq_true h
  have hhalf : 2 ^ w.bits = 2 ^ (w.bits / 2) * 2 ^ (w.bits / 2) := by cases w <;> rfl
  have hres : 2 ^ (w.bits / 2) ≤ radixResidue n := Nat.mul_self_le_mul_self_iff.1 (hhalf ▸ hsq)
  by_cases h0 : n.toNat = 0
  · have : 1 < 2 ^ (w.bits / 2) := by cases w <;> decide
    rw [radixResidue_of_zero h0] at hres
    omega
  · exact hres.trans_lt (radixResidue_lt h0)

/-- Settles O29, case by case of R132. -/
theorem conversionConstantIsRSquared : Obligations.ConversionConstantIsRSquared := by
  intro w n
  have hone : 1 < 2 ^ w.bits := Nat.one_lt_two_pow (bits_pos w).ne'
  refine ⟨fun hn hx hsq => ?_, fun hx => ?_, two_pow_half_lt_of_square_wraps w, fun hn => ?_, fun hn => ?_⟩
  · have h0 : n.toNat ≠ 0 := by omega
    have := r2calc_fst_of_no_wrap h0 hx hsq
    exact ⟨this, this ▸ Nat.mod_lt _ hn⟩
  · simp [r2calc_fst_toNat, radixResidue_of_eq hx]
  · have h0 : n.toNat = 0 := by simp [hn]
    rw [r2calc_fst_toNat, if_pos h0, radixResidue_of_zero h0, Nat.mod_eq_of_lt (by omega)]
  · have h1 : n.toNat = 1 := by simp [hn, Nat.mod_eq_of_lt hone]
    rw [r2calc_fst_toNat, if_neg (by omega), h1, Nat.mod_one]

/-! ## CFGFLAGS (41_configure.md R133) -/

section
variable {w : Width} (n : Word w.bits)

theorem modEven_iff : (configure n).2.modEven = true ↔ n.toNat % 2 = 0 := by
  simp [configure, cfgFlags, getLsbD_zero_eq_decide]

theorem modZero_iff : (configure n).2.modZero = true ↔ n.toNat = 0 := by
  simp [configure, cfgFlags, BitVec.toNat_eq]

theorem rangeWarn_iff : (configure n).2.rangeWarn = true ↔ 2 ^ (w.bits / 2 - 1) ≤ n.toNat := decide_eq_true_iff

theorem radixOvf_iff : (configure n).2.radixOvf = true ↔ (radix n).1 = w.bits := decide_eq_true_iff

theorem radixOvf_iff_le : (configure n).2.radixOvf = true ↔ 2 ^ (w.bits - 1) ≤ n.toNat :=
  (radixOvf_iff n).trans (radix_fst_eq_width_iff (bits_pos w) n)

theorem cfgOvf_iff : (configure n).2.cfgOvf = true ↔ (radix n).1 = w.bits ∨ (r2calc n (radix n).2).2 = true := by
  simp [configure, cfgFlags]

/-- A radix that does not overflow fits its register. -/
theorem radix_lt_of_not_radixOvf {n : Word w.bits} (h : (configure n).2.radixOvf = false) :
    (radix n).1 < w.bits :=
  lt_of_le_of_ne (radix_fst_le n) fun hx => by simp [(radixOvf_iff n).2 hx] at h

variable {n}

theorem rangeWarn_of_radixOvf (h : (configure n).2.radixOvf = true) : (configure n).2.rangeWarn = true :=
  (rangeWarn_iff n).2 ((Nat.pow_le_pow_right (by omega) (by omega)).trans ((radixOvf_iff_le n).1 h))

theorem cfgOvf_of_radixOvf (h : (configure n).2.radixOvf = true) : (configure n).2.cfgOvf = true :=
  (cfgOvf_iff n).2 (.inl ((radixOvf_iff n).1 h))

/-- Either the radix overflows, or the square wraps, which takes a modulus above 2^(W/2). -/
theorem rangeWarn_of_cfgOvf (h : (configure n).2.cfgOvf = true) : (configure n).2.rangeWarn = true := by
  rcases (cfgOvf_iff n).1 h with hx | hsq
  · exact rangeWarn_of_radixOvf ((radixOvf_iff n).2 hx)
  · exact (rangeWarn_iff n).2
      ((Nat.pow_le_pow_right (by omega) (Nat.sub_le _ _)).trans (two_pow_half_lt_of_square_wraps w hsq).le)

end

/-- Settles O30, with one lemma for each flag and each implication. -/
theorem configurationFlagsDescribeTheModulus : Obligations.ConfigurationFlagsDescribeTheModulus := by
  intro w n
  refine ⟨modEven_iff n, modZero_iff n, rangeWarn_iff n, radixOvf_iff_le n, fun hz => ?_,
    fun hr => ⟨rangeWarn_of_radixOvf hr, cfgOvf_of_radixOvf hr⟩, rangeWarn_of_cfgOvf⟩
  rw [modEven_iff, (modZero_iff n).1 hz]

/-! ## The constants of a configuration -/

section
variable {w : Width} (n : Word w.bits)

@[simp] theorem configure_cfgN : (configure n).1.cfgN = n := rfl

@[simp] theorem configure_r : (configure n).1.r = (radix n).2 := rfl

@[simp] theorem configure_x_toNat : (configure n).1.x.toNat = (radix n).1 := ofNat_radix_toNat w n

@[simp] theorem configure_nprime : (configure n).1.nprime = invsolve n (radix n).1 := rfl

@[simp] theorem configure_r2 : (configure n).1.r2 = (r2calc n (radix n).2).1 := rfl

end

end Sys2Proof.Machine

namespace Sys2Proof.Machine

/-! ## The six items of 10_state.md R49 -/

/-- Item 2 of R49, of the constants of a configuration. -/
theorem configure_radix_spec {w : Width} (n : Word w.bits) (h : (configure n).2.radixOvf = false) :
    (configure n).1.r.toNat = 2 ^ (configure n).1.x.toNat ∧ n.toNat < (configure n).1.r.toNat ∧
      (configure n).1.r.toNat / 2 ≤ n.toNat := by
  rw [configure_x_toNat, configure_r, radix_snd_of_lt (radix_lt_of_not_radixOvf h)]
  exact ⟨rfl, lt_two_pow_radix n, half_two_pow_radix_le n⟩

theorem odd_of_not_modEven {w : Width} {n : Word w.bits} (h : (configure n).2.modEven = false) : n.toNat % 2 = 1 :=
  Nat.mod_two_ne_zero.1 fun h0 => by simp [(modEven_iff n).2 h0] at h

/-- Item 3 of R49, of the constants of a configuration. -/
theorem configure_inverse_spec {w : Width} (n : Word w.bits) (hr : (configure n).2.radixOvf = false)
    (he : (configure n).2.modEven = false) :
    n.toNat * (configure n).1.nprime.toNat % (configure n).1.r.toNat = (configure n).1.r.toNat - 1 ∧
      (configure n).1.nprime.toNat < (configure n).1.r.toNat := by
  rw [configure_nprime, configure_r, radix_snd_of_lt (radix_lt_of_not_radixOvf hr)]
  exact ⟨mul_invsolve_mod w (odd_of_not_modEven he) (radix_fst_le n), invsolve_lt w n (radix_fst_le n)⟩

/-- Item 4 of R49, of the constants of a configuration. -/
theorem configure_conversion_spec {w : Width} (n : Word w.bits) (hz : (configure n).2.modZero = false)
    (hc : (configure n).2.cfgOvf = false) :
    (configure n).1.r2.toNat = (2 ^ (configure n).1.x.toNat) ^ 2 % n.toNat ∧
      (configure n).1.r2.toNat < n.toNat := by
  have hn : n.toNat ≠ 0 := fun h0 => by simp [(modZero_iff n).2 h0] at hz
  have hno : ¬((radix n).1 = w.bits ∨ (r2calc n (radix n).2).2 = true) := by
    rw [← cfgOvf_iff, hc]
    decide
  obtain ⟨hx, hsq⟩ := not_or.1 hno
  have hr2 := r2calc_fst_of_no_wrap hn (lt_of_le_of_ne (radix_fst_le n) hx) (by simpa using hsq)
  rw [configure_r2, configure_x_toNat]
  exact ⟨hr2, hr2 ▸ Nat.mod_lt _ (Nat.pos_of_ne_zero hn)⟩

section
variable {w : Width} {e e' : Engine w.bits}

/-- The six items speak of the configuration, of BUSY, DONE and the reserved bits only. -/
theorem SpecInvariant.of_sameConfiguration (h : SpecInvariant e) (hsame : SameConfiguration e' e)
    (hbusy : e'.flag .busy = true → e'.flag .done = false) (hres : ReservedClear e'.status) : SpecInvariant e' := by
  obtain ⟨hred, hvalid, hflags⟩ := hsame
  simp only [Engine.reducer, Reducer.mk.injEq] at hred
  simp only [Engine.configFlags, CfgFlags.mk.injEq] at hflags
  obtain ⟨hcfgN, hr, hx, hnprime, hr2⟩ := hred
  obtain ⟨heven, hzero, -, hradix, hcfgOvf⟩ := hflags
  constructor
  · rw [hvalid, hcfgN, hr, hx, hnprime, hr2]
    exact h.unconfigured
  · rw [hvalid, hradix, hr, hx, hcfgN]
    exact h.radix
  · rw [hvalid, hradix, heven, hcfgN, hnprime, hr]
    exact h.inverse
  · rw [hvalid, hzero, hcfgOvf, hr2, hx, hcfgN]
    exact h.conversion
  · exact hbusy
  · exact (reservedClear_iff _).1 hres

/-- A configured engine meets the first four items whatever was there before. -/
theorem SpecInvariant.of_configure (n : Word w.bits) (hred : e.reducer = (configure n).1)
    (hvalid : e.flag .cfgValid = true) (hflags : e.configFlags = (configure n).2)
    (hbusy : e.flag .busy = true → e.flag .done = false) (hres : ReservedClear e.status) : SpecInvariant e := by
  have hn : e.cfgN = n := congrArg Reducer.cfgN hred
  have hradix := congrArg CfgFlags.radixOvf hflags
  have heven := congrArg CfgFlags.modEven hflags
  have hzero := congrArg CfgFlags.modZero hflags
  have hovf := congrArg CfgFlags.cfgOvf hflags
  have item2 := configure_radix_spec n
  have item3 := configure_inverse_spec n
  have item4 := configure_conversion_spec n
  rw [← hradix, ← hred, ← hn] at item2
  rw [← hradix, ← heven, ← hred, ← hn] at item3
  rw [← hzero, ← hovf, ← hred, ← hn] at item4
  constructor
  · simp [hvalid]
  · exact fun _ => item2
  · exact fun _ => item3
  · exact fun _ => item4
  · exact hbusy
  · exact (reservedClear_iff _).1 hres

theorem SpecInvariant.reservedClear (h : SpecInvariant e) : ReservedClear e.status := (reservedClear_iff _).2 h.reserved

theorem SpecInvariant.storeReg (h : SpecInvariant e) (reg : Reg) (v : Word w.bits) :
    SpecInvariant (e.storeReg reg v) := by
  have hstatus : (e.storeReg reg v).status = e.status := by rw [Engine.storeReg_eq]
  refine h.of_sameConfiguration (e.storeReg_sameConfiguration reg v) ?_ (hstatus ▸ h.reservedClear)
  simpa only [Engine.flag_eq, hstatus] using h.busy_not_done

theorem SpecInvariant.reject (h : SpecInvariant e) (cause : CmdError) : SpecInvariant (e.reject cause) :=
  h.of_sameConfiguration (e.reject_sameConfiguration cause) (by simpa using h.busy_not_done)
    (h.reservedClear.rejectStatus cause)

theorem SpecInvariant.accept (h : SpecInvariant e) (c : Command) : SpecInvariant (e.accept c) :=
  h.of_sameConfiguration (e.accept_sameConfiguration c) (by simp) h.reservedClear.acceptStatus

theorem SpecInvariant.commit (h : SpecInvariant e) (c : Command) : SpecInvariant (commitOf c e) := by
  have hbusy : (commitOf c e).flag .busy = true → (commitOf c e).flag .done = false := by
    simpa [commitOf_flag_of_control] using h.busy_not_done
  have hres := commitOf_reservedClear c e h.reservedClear
  by_cases hc : c = .config
  · subst hc
    exact .of_configure e.snap.n e.configComplete_reducer (by simp [commitOf]) e.configComplete_configFlags hbusy hres
  · exact h.of_sameConfiguration (commitOf_sameConfiguration e hc) hbusy hres

theorem SpecInvariant.finish (h : SpecInvariant e) : SpecInvariant e.finish :=
  h.of_sameConfiguration e.finish_sameConfiguration (by simp) h.reservedClear.finishStatus

theorem SpecInvariant.resetInput : SpecInvariant e.resetInput where
  unconfigured := by simp
  radix := by simp
  inverse := by simp
  conversion := by simp
  busy_not_done := by simp
  reserved := (reservedClear_iff _).1 .zero

end

/-- Settles O45: each of the five things a step can do to the engine keeps the six items. -/
theorem stepKeepsTheSpecInvariant : Obligations.StepKeepsTheSpecInvariant := by
  intro s t hs hstep
  exact step_preserves (fun _ e => SpecInvariant e) (fun _ _ reg v h => h.storeReg reg v)
    (fun _ _ cause h => h.reject cause) (fun _ _ c h _ => h.accept c) (fun _ e h _ => (h.commit e.snap.op).finish)
    (fun _ _ => .resetInput) hs hstep

/-- The engine right after reset is what the reset input makes of it. -/
theorem Engine.initial_eq_resetInput (w : Nat) : Engine.initial w = (Engine.initial w).resetInput := rfl

/-- Settles O44. -/
theorem initialStateMeetsTheInvariants : Obligations.InitialStateMeetsTheInvariants := by
  intro w stream
  change SpecInvariant (Engine.initial w.bits) ∧ Consistent (Engine.initial w.bits)
  rw [Engine.initial_eq_resetInput]
  exact ⟨.resetInput, .resetInput⟩

/-- Settles O47: O44 is the start of the induction over the run and O45 its step. -/
theorem reachableStatesMeetTheSpecInvariant : Obligations.ReachableStatesMeetTheSpecInvariant := by
  intro w stream k t hrun
  exact run_preserves (P := fun s => SpecInvariant s.engine) stepKeepsTheSpecInvariant k
    (initialStateMeetsTheInvariants w stream).1 hrun

end Sys2Proof.Machine

namespace Sys2Proof.Machine

/-! ## STATUS as a number, and the port transactions -/

theorem toNat_getLsbD {w : Nat} (v : Word w) (i : Nat) : (v.getLsbD i).toNat = v.toNat / 2 ^ i % 2 :=
  Nat.toNat_testBit _ _

/-- Settles O13: below 2^16 and with bits 10 and 11 clear, a number is the sum of its bits and its top nibble. -/
theorem statusReadIsItsFields : Obligations.StatusReadIsItsFields := by
  intro s hs
  obtain ⟨hmid, hhigh⟩ := hs.reserved
  replace hmid : s.engine.status.toNat / 2 ^ 10 % 4 = 0 := by
    simpa [Nat.shiftRight_eq_div_pow] using congrArg BitVec.toNat hmid
  have herr : s.engine.errcode.toNat = s.engine.status.toNat / 2 ^ 12 := by
    simp only [Engine.errcode, getErrcode, errcodePos, BitVec.extractLsb'_toNat, Nat.shiftRight_eq_div_pow]
    omega
  simp only [State.value, Engine.readReg, Engine.flag, getFlag, Flag.pos, toNat_getLsbD, herr]
  generalize s.engine.status.toNat = v at *
  simp only [Nat.pow_succ, Nat.pow_zero, ← Nat.div_div_eq_div_mul, Nat.div_one] at hmid ⊢
  omega

/-- The read value of the register an index names is the entry of the table of R100 at that index. -/
theorem readReg_ofIndex {w : Nat} (e : Engine w) (idx : Fin 16) :
    e.readReg (Reg.ofIndex (BitVec.ofFin idx)) =
      [0, e.status, e.n, e.a, e.b, e.result, e.cfgN, e.r, e.x, e.nprime, e.r2, BitVec.ofNat w w, 0, 0, 0, 0].getD
        idx.val 0 := by
  fin_cases idx <;> rfl

theorem exec_portRead (reg : Reg) (s : State) :
    exec (.portRead reg) s = .next { s with reply := some (s.engine.readReg reg) } := rfl

/-- Settles O12. -/
theorem portReadReturnsTheRegister : Obligations.PortReadReturnsTheRegister := by
  intro s idx
  rw [exec_portRead, readReg_ofIndex]

/-- Settles O14: W is below 256 in every build. -/
theorem paramsReadsTheWidth : Obligations.ParamsReadsTheWidth := by
  intro s
  refine ⟨⟨_, exec_portRead .params s, ?_⟩, fun _ => rfl⟩
  have hv : (s.engine.readReg .params).toNat = s.width.bits := by
    simp [Engine.readReg, Nat.mod_eq_of_lt Nat.lt_two_pow_self]
  rw [hv]
  cases s.width <;> decide

/-- A store to N, A or B is read back there. -/
theorem readReg_storeReg_same {w : Nat} (e : Engine w) {reg : Reg} (hreg : reg = .n ∨ reg = .a ∨ reg = .b)
    (v : Word w) : (e.storeReg reg v).readReg reg = v := by
  rcases hreg with rfl | rfl | rfl <;> rfl

/-- A store leaves what every other register reads as it was. -/
theorem readReg_storeReg_of_ne {w : Nat} (e : Engine w) {reg other : Reg} (h : other ≠ reg) (v : Word w) :
    (e.storeReg reg v).readReg other = e.readReg other := by
  rw [Engine.storeReg_eq]
  cases other
  case n | a | b => exact if_neg h.symm
  all_goals rfl

/-- Settles O15. -/
theorem portWriteStoresTheOperand : Obligations.PortWriteStoresTheOperand := by
  intro s v hv
  refine ⟨rfl, rfl, rfl, fun reg hreg => ⟨{ s with engine := s.engine.storeReg reg (BitVec.ofNat _ v) }, ?_, ?_, ?_⟩⟩
  · have hcmd : reg ≠ .cmd := by rcases hreg with rfl | rfl | rfl <;> decide
    rw [exec_portWrite, if_neg hcmd]
  · rw [State.value, readReg_storeReg_same _ hreg, BitVec.toNat_ofNat, Nat.mod_eq_of_lt hv]
  · intro other hother
    rw [State.value, readReg_storeReg_of_ne _ hother]
    rfl

/-! ## Acceptance of a request (40_host_port.md R102) -/

/-- A write to CMD is a request and nothing else. -/
theorem exec_request_of_eq {s : State} {v : Nat} {e : Engine s.width.bits}
    (h : s.engine.commandRequest (BitVec.ofNat _ v) = e) :
    exec (.portWrite .cmd v) s = .next { s with engine := e } := by
  rw [exec_portWrite, if_pos rfl, h]

theorem needsConfig_iff (c : Command) : needsConfig c = true ↔ c = .mul ∨ c = .redc := by cases c <;> decide

/-- A request is accepted when no command runs and the reducer is configured if it must be. -/
theorem Engine.commandRequest_accept {w : Width} (e : Engine w.bits) (c : Command) (hb : e.flag .busy = false)
    (hc : needsConfig c = true → e.flag .cfgValid = true) : e.commandRequest (c.word w.bits) = e.accept c := by
  obtain ⟨hb', -⟩ | ⟨-, cause, hd, -⟩ | ⟨-, c', hd, hn, hv, -⟩ | ⟨-, c', hd, -, hq⟩ :=
    e.commandRequest_cases (c.word w.bits)
  · simp [hb] at hb'
  · simp [decodeCmd_word] at hd
  · cases (decodeCmd_word w c).symm.trans hd
    simp [hc hn] at hv
  · cases (decodeCmd_word w c).symm.trans hd
    exact hq

/-- Settles O17. -/
theorem acceptanceTakesTheSnapshot : Obligations.AcceptanceTakesTheSnapshot := by
  intro s c hb hc
  refine ⟨acceptStatus s.engine.status, exec_request_of_eq (e := s.engine.accept c) ?_, fun i => ?_⟩
  · rw [ofNat_opcode]
    exact s.engine.commandRequest_accept c hb fun hn => hc ((needsConfig_iff c).1 hn)
  · rw [getLsbD_acceptStatus]
    grind

/-! ## Completions -/

/-- In the engine's turn the accepted command completes. -/
theorem exec_completing {s : State} {c : Command} (h : s.completing c) :
    exec c.toInstr s = .next { s with engine := (commitOf c s.engine).finish } := by
  obtain ⟨hagent, hphase, hop⟩ := h
  rw [exec_command_engine c s hagent, Engine.completeWith, if_pos ⟨hphase, hop⟩]

theorem eq_decide_of_iff {b : Bool} {p : Prop} [Decidable p] (h : b = true ↔ p) : b = decide p :=
  Bool.eq_iff_iff.2 (h.trans decide_eq_true_iff.symm)

/-- The flags of a configuration, as the conditions of R133 on integers. -/
theorem configure_flags_eq {w : Width} (n : Word w.bits) :
    (configure n).2 =
      { modEven := decide (n.toNat % 2 = 0)
        modZero := decide (n.toNat = 0)
        rangeWarn := decide (2 ^ (w.bits / 2 - 1) ≤ n.toNat)
        radixOvf := decide (2 ^ (w.bits - 1) ≤ n.toNat)
        cfgOvf := decide (2 ^ (w.bits - 1) ≤ n.toNat ∨ 2 ^ w.bits ≤ radixResidue n * radixResidue n) } := by
  have hovf := cfgOvf_iff n
  rw [radix_fst_eq_width_iff (bits_pos w), r2calc_snd, decide_eq_true_iff] at hovf
  rw [← eq_decide_of_iff (modEven_iff n), ← eq_decide_of_iff (modZero_iff n), ← eq_decide_of_iff (rangeWarn_iff n),
    ← eq_decide_of_iff (radixOvf_iff_le n), ← eq_decide_of_iff hovf]

/-- Settles O22: the constants and flags are those of `configure`, which the lemmas on RADIX, INVSOLVE, R2CALC and
CFGFLAGS give on integers. -/
theorem configCompletes : Obligations.ConfigCompletes := by
  intro s hs
  refine ⟨(radix s.engine.snap.n).1, (radix s.engine.snap.n).2, invsolve s.engine.snap.n (radix s.engine.snap.n).1,
    (r2calc s.engine.snap.n (radix s.engine.snap.n).2).1,
    finishStatus (configStatus s.engine.status (configure s.engine.snap.n).2), exec_completing hs,
    ?_, radix_fst_le _, radix_snd_toNat _, invsolve_toNat _ _ (radix_fst_le _), r2calc_fst_toNat _, fun i => ?_⟩
  · rw [radix_fst]
    exact isRadixExp_size _
  · rw [getLsbD_finishStatus, getLsbD_configStatus, configure_flags_eq]
    simp only [← radixResidue.eq_def]
    grind

end Sys2Proof.Machine

namespace Sys2Proof.Machine

/-! ## REDC and MULSEQ on words are the rules on integers (42_redc.md R160, 43_multiply.md R180) -/

theorem one_toNat (w : Width) : (1 : Word w.bits).toNat = 1 :=
  Nat.mod_eq_of_lt (Nat.one_lt_two_pow (bits_pos w).ne')

/-- `r - 1` on words, as `redcInt` writes it. -/
theorem sub_one_toNat (w : Width) (r : Word w.bits) :
    (r - 1).toNat = (r.toNat + 2 ^ w.bits - 1) % 2 ^ w.bits := by
  have := Nat.two_pow_pos w.bits
  rw [BitVec.toNat_sub, one_toNat]
  congr 1
  omega

/-- The final subtraction, taken only when it does not borrow. -/
theorem toNat_sub_if_le {w : Nat} (t n : Word w) :
    (if n ≤ t then t - n else t).toNat = if n.toNat ≤ t.toNat then t.toNat - n.toNat else t.toNat := by
  simp only [BitVec.le_def]
  split
  next h => exact BitVec.toNat_sub_of_le (BitVec.le_def.2 h)
  next => rfl

/-- REDC on W-bit words, with any constants, is the rule on integers. -/
theorem redc_toNat (w : Width) (c : Reducer w.bits) (T : Word w.bits) :
    ((redc c T).1.toNat, (redc c T).2) =
      redcInt w.bits c.cfgN.toNat c.r.toNat c.x.toNat c.nprime.toNat T.toNat := by
  simp only [redc, redcInt, toNat_sub_if_le, shr_toNat, BitVec.toNat_add, BitVec.toNat_mul, BitVec.toNat_and,
    sub_one_toNat, wrapsMul, wrapsAdd, Bool.decide_or, Bool.or_assoc]

theorem redc_fst_toNat (w : Width) (c : Reducer w.bits) (T : Word w.bits) :
    (redc c T).1.toNat = (redcInt w.bits c.cfgN.toNat c.r.toNat c.x.toNat c.nprime.toNat T.toNat).1 :=
  congrArg Prod.fst (redc_toNat w c T)

theorem redc_snd (w : Width) (c : Reducer w.bits) (T : Word w.bits) :
    (redc c T).2 = (redcInt w.bits c.cfgN.toNat c.r.toNat c.x.toNat c.nprime.toNat T.toNat).2 :=
  congrArg Prod.snd (redc_toNat w c T)

/-- MULSEQ on W-bit words, with any constants, is the rule on integers. -/
theorem mulseq_toNat (w : Width) (c : Reducer w.bits) (cfgOvf : Bool) (a b : Word w.bits) :
    ((mulseq c cfgOvf a b).1.toNat, (mulseq c cfgOvf a b).2) =
      mulInt w.bits c.cfgN.toNat c.r.toNat c.x.toNat c.nprime.toNat c.r2.toNat cfgOvf a.toNat b.toNat := by
  simp only [mulseq, mulInt, redc_fst_toNat, redc_snd, BitVec.toNat_mul, wrapsMul, Bool.decide_or, Bool.decide_eq_true,
    Bool.or_assoc]

/-! ## Montgomery reduction on integers (42_redc.md R163, 43_multiply.md R182) -/

/-- The mask `r - 1` keeps the low `x` bits, also for x = W, where register R holds 0. -/
theorem redcInt_mask {W x v : Nat} (hx : x ≤ W) :
    (v % 2 ^ W) &&& ((2 ^ x % 2 ^ W + 2 ^ W - 1) % 2 ^ W) = v % 2 ^ x := by
  have hpos := Nat.two_pow_pos x
  have hle : 2 ^ x ≤ 2 ^ W := Nat.pow_le_pow_right (by omega) hx
  have hmask : (2 ^ x % 2 ^ W + 2 ^ W - 1) % 2 ^ W = 2 ^ x - 1 := by
    rcases hle.eq_or_lt with heq | hlt
    · rw [heq, Nat.mod_self, Nat.zero_add, Nat.mod_eq_of_lt (by omega)]
    · rw [Nat.mod_eq_of_lt hlt, Nat.sub_add_comm hpos, Nat.add_mod_right, Nat.mod_eq_of_lt (by omega)]
  rw [hmask, Nat.and_two_pow_sub_one_eq_mod, Nat.mod_mod_of_dvd _ (pow_dvd_pow 2 hx)]

/-- The quotient of REDC before the final subtraction, where nothing wraps. -/
def redcQuot (n x np T : Nat) : Nat := (T + T * np % 2 ^ x * n) / 2 ^ x

/-- Where neither the product nor the sum wraps and the radix fits, REDC reports no wrap and subtracts the modulus at
most once. -/
theorem redcInt_of_no_wrap {W n x np T : Nat} (hx : x < W) (hsum : T + T * np % 2 ^ x * n < 2 ^ W) :
    redcInt W n (2 ^ x) x np T =
      (if n ≤ redcQuot n x np T then redcQuot n x np T - n else redcQuot n x np T, false) := by
  have hr : 2 ^ x = 2 ^ x % 2 ^ W := (Nat.mod_eq_of_lt (Nat.pow_lt_pow_right (by omega) hx)).symm
  have hm : (T * np % 2 ^ W) &&& ((2 ^ x + 2 ^ W - 1) % 2 ^ W) = T * np % 2 ^ x := by
    conv_lhs => rw [hr]
    exact redcInt_mask hx.le
  have hu : T * np % 2 ^ x * n % 2 ^ W = T * np % 2 ^ x * n := Nat.mod_eq_of_lt (by omega)
  simp only [redcInt, hm, hu, Nat.mod_eq_of_lt hsum, if_pos hx, redcQuot]
  exact Prod.ext rfl (decide_eq_false (by omega))

/-- The multiple of the modulus that REDC adds makes the sum divisible by the radix (42_redc.md R163). -/
theorem two_pow_dvd_redc_sum {n x np : Nat} (hnp : n * np % 2 ^ x = 2 ^ x - 1) (T : Nat) :
    2 ^ x ∣ T + T * np % 2 ^ x * n := by
  have hpos := Nat.two_pow_pos x
  have hinv : 2 ^ x ∣ n * np + 1 := by
    have hdiv := Nat.div_add_mod (n * np) (2 ^ x)
    exact ⟨n * np / 2 ^ x + 1, by rw [Nat.mul_add]; omega⟩
  have hmod : T + T * np % 2 ^ x * n ≡ T * (n * np + 1) [MOD 2 ^ x] := by
    have hT : T * (n * np + 1) = T + T * np * n := by ring
    rw [hT]
    exact (Nat.ModEq.refl T).add ((Nat.mod_modEq _ _).mul_right n)
  exact (hmod.dvd_iff dvd_rfl).2 (hinv.mul_left T)

theorem redcQuot_mul {n x np : Nat} (hnp : n * np % 2 ^ x = 2 ^ x - 1) (T : Nat) :
    redcQuot n x np T * 2 ^ x = T + T * np % 2 ^ x * n := Nat.div_mul_cancel (two_pow_dvd_redc_sum hnp T)

/-- Constants for which REDC reduces products of residues exactly: an odd modulus below the radix, a radix that fits
its register, the inverse of R131, and room for the sum that REDC divides. -/
structure ExactConstants (W n x np : Nat) : Prop where
  odd : n % 2 = 1
  lt_radix : n < 2 ^ x
  radix_fits : x < W
  inverse : n * np % 2 ^ x = 2 ^ x - 1
  sum_fits : 2 * (n * 2 ^ x) ≤ 2 ^ W

section
variable {W n x np : Nat}

/-- The radix can be cancelled modulo an odd modulus. -/
theorem ExactConstants.cancel_radix (h : ExactConstants W n x np) {c d : Nat}
    (hcd : c * 2 ^ x ≡ d * 2 ^ x [MOD n]) : c ≡ d [MOD n] :=
  Nat.ModEq.cancel_right_of_coprime ((Nat.coprime_two_right.2 (Nat.odd_iff.2 h.odd)).pow_right x) hcd

/-- Products of residues are below n·2^x, so that REDC takes them to residues. -/
theorem ExactConstants.mul_lt (h : ExactConstants W n x np) {c d : Nat} (hc : c < n) (hd : d < n) :
    c * d < n * 2 ^ x := (Nat.mul_lt_mul'' hc hd).trans_le (Nat.mul_le_mul_left n h.lt_radix.le)

/-- Products of residues do not wrap. -/
theorem ExactConstants.mul_mod_word (h : ExactConstants W n x np) {c d : Nat} (hc : c < n) (hd : d < n) :
    c * d < 2 ^ W := by
  have := h.mul_lt hc hd
  have := h.sum_fits
  omega

/-- REDC divides by the radix modulo n: its result times 2^x is T, and it is below n for T below n·2^x. -/
theorem ExactConstants.redcInt_reduces (h : ExactConstants W n x np) {T : Nat} (hT : T < n * 2 ^ x) :
    ∃ t, redcInt W n (2 ^ x) x np T = (t, false) ∧ t < n ∧ t * 2 ^ x ≡ T [MOD n] := by
  have hm : T * np % 2 ^ x * n ≤ 2 ^ x * n := Nat.mul_le_mul_right n (Nat.mod_lt _ (Nat.two_pow_pos x)).le
  have hcomm : 2 ^ x * n = n * 2 ^ x := Nat.mul_comm _ _
  have hquot := redcQuot_mul h.inverse T
  have hlt : redcQuot n x np T < 2 * n := Nat.lt_of_mul_lt_mul_right (a := 2 ^ x) (by rw [hquot, Nat.mul_assoc]; omega)
  have hmod : redcQuot n x np T * 2 ^ x ≡ T [MOD n] := by
    rw [hquot]
    exact Nat.modEq_of_dvd (by simp)
  refine ⟨_, redcInt_of_no_wrap h.radix_fits (by have := h.sum_fits; omega), ?_⟩
  split
  next hle =>
    have hsub : redcQuot n x np T - n ≡ redcQuot n x np T [MOD n] := ((Nat.modEq_sub_modulus_iff hle).2 rfl).symm
    exact ⟨by omega, (hsub.mul_right _).trans hmod⟩
  next hgt => exact ⟨Nat.lt_of_not_le hgt, hmod⟩

/-- REDC of a residue times the square of the radix takes it into the Montgomery domain. -/
theorem ExactConstants.redcInt_converts (h : ExactConstants W n x np) {c r2 : Nat} (hc : c < n) (hr2 : r2 < n)
    (hmod : r2 ≡ 2 ^ x * 2 ^ x [MOD n]) :
    ∃ t, redcInt W n (2 ^ x) x np (c * r2) = (t, false) ∧ t < n ∧ t ≡ c * 2 ^ x [MOD n] := by
  obtain ⟨t, ht, htn, htmod⟩ := h.redcInt_reduces (h.mul_lt hc hr2)
  refine ⟨t, ht, htn, h.cancel_radix (htmod.trans ?_)⟩
  rw [Nat.mul_assoc]
  exact hmod.mul_left c

/-- MULSEQ multiplies modulo n and reports no wrap: into the Montgomery domain and back out of it. -/
theorem ExactConstants.mulInt_eq (h : ExactConstants W n x np) {r2 a b : Nat} (hr2 : r2 < n)
    (hr2mod : r2 ≡ 2 ^ x * 2 ^ x [MOD n]) (ha : a < n) (hb : b < n) :
    mulInt W n (2 ^ x) x np r2 false a b = (a * b % n, false) := by
  obtain ⟨abar, habar, habarlt, habarmod⟩ := h.redcInt_converts ha hr2 hr2mod
  obtain ⟨bbar, hbbar, hbbarlt, hbbarmod⟩ := h.redcInt_converts hb hr2 hr2mod
  obtain ⟨cbar, hcbar, hcbarlt, hcbarmod⟩ := h.redcInt_reduces (h.mul_lt habarlt hbbarlt)
  obtain ⟨res, hres, hreslt, hresmod⟩ :=
    h.redcInt_reduces (hcbarlt.trans_le (Nat.le_mul_of_pos_right n (Nat.two_pow_pos x)))
  have hcbarmod' : cbar ≡ a * b * 2 ^ x [MOD n] := by
    refine h.cancel_radix (hcbarmod.trans ((habarmod.mul hbbarmod).trans ?_))
    rw [Nat.mul_mul_mul_comm, Nat.mul_assoc (a * b)]
  have hval : res = a * b % n := by
    rw [← Nat.mod_eq_of_lt hreslt]
    exact h.cancel_radix (hresmod.trans hcbarmod')
  simp [mulInt, Nat.mod_eq_of_lt, h.mul_mod_word ha hr2, h.mul_mod_word hb hr2, h.mul_mod_word habarlt hbbarlt, habar,
    hbbar, hcbar, hres, hval]

end

/-! ## MUL in the safe domain (43_multiply.md R182) -/

/-- The safe domain leaves room for REDC's sum: 2^x is at most 2·n, and 2·n is below 2^(W/2). -/
theorem redc_sum_fits_of_safe {w : Width} {n : Word w.bits} (h0 : n.toNat ≠ 0)
    (h : n.toNat < 2 ^ (w.bits / 2 - 1)) : 2 * (n.toNat * 2 ^ (radix n).1) ≤ 2 ^ w.bits := by
  have hsafe : 2 ^ w.bits = (2 * 2 ^ (w.bits / 2 - 1)) * (2 * 2 ^ (w.bits / 2 - 1)) := by cases w <;> rfl
  have hradix : 2 ^ (radix n).1 ≤ 2 * n.toNat := by
    have := half_two_pow_radix_le n
    cases hx : (radix n).1 with
    | zero => omega
    | succ x =>
      rw [hx, Nat.pow_succ] at this
      omega
  calc 2 * (n.toNat * 2 ^ (radix n).1) ≤ 2 * (n.toNat * (2 * n.toNat)) := by gcongr
    _ = (2 * n.toNat) * (2 * n.toNat) := by ring
    _ ≤ 2 ^ w.bits := by
      rw [hsafe]
      gcongr

section
variable {w : Width} {n : Word w.bits}

/-- A modulus outside the warned range overflows neither its radix nor its conversion constant. -/
theorem not_overflow_of_not_rangeWarn (h : (configure n).2.rangeWarn = false) :
    (configure n).2.radixOvf = false ∧ (configure n).2.cfgOvf = false := by
  have hwarn := Bool.eq_false_iff.1 h
  exact ⟨Bool.eq_false_iff.2 (hwarn ∘ rangeWarn_of_radixOvf), Bool.eq_false_iff.2 (hwarn ∘ rangeWarn_of_cfgOvf)⟩

/-- The constants of an odd modulus of the safe domain. -/
theorem exactConstants_of_safe (heven : (configure n).2.modEven = false) (hwarn : (configure n).2.rangeWarn = false) :
    ExactConstants w.bits n.toNat (radix n).1 (invsolve n (radix n).1).toNat where
  odd := odd_of_not_modEven heven
  lt_radix := lt_two_pow_radix n
  radix_fits := radix_lt_of_not_radixOvf (not_overflow_of_not_rangeWarn hwarn).1
  inverse := mul_invsolve_mod w (odd_of_not_modEven heven) (radix_fst_le n)
  sum_fits := by
    have hodd := odd_of_not_modEven heven
    exact redc_sum_fits_of_safe (by omega) (Nat.lt_of_not_le (of_decide_eq_false hwarn))

/-- MULSEQ with the constants of an odd modulus of the safe domain. -/
theorem mulseq_of_safe {a b : Word w.bits} (heven : (configure n).2.modEven = false)
    (hwarn : (configure n).2.rangeWarn = false) (ha : a.toNat < n.toNat) (hb : b.toNat < n.toNat) :
    (mulseq (configure n).1 (configure n).2.cfgOvf a b).1.toNat = a.toNat * b.toNat % n.toNat ∧
      (mulseq (configure n).1 (configure n).2.cfgOvf a b).2 = false := by
  obtain ⟨hradix, hcfg⟩ := not_overflow_of_not_rangeWarn hwarn
  have hodd := odd_of_not_modEven heven
  have hzero : (configure n).2.modZero = false := Bool.eq_false_iff.2 fun ht => by
    have := (modZero_iff n).1 ht
    omega
  obtain ⟨hr2, hr2lt⟩ := configure_conversion_spec n hzero hcfg
  have hr2mod : (configure n).1.r2.toNat ≡ 2 ^ (radix n).1 * 2 ^ (radix n).1 [MOD n.toNat] := by
    rw [hr2, configure_x_toNat, Nat.pow_two]
    exact Nat.mod_modEq _ _
  have hmul := (exactConstants_of_safe heven hwarn).mulInt_eq hr2lt hr2mod ha hb
  have hword := mulseq_toNat w (configure n).1 false a b
  rw [configure_cfgN, configure_r, radix_snd_of_lt (radix_lt_of_not_radixOvf hradix), configure_x_toNat,
    configure_nprime, hmul] at hword
  rw [hcfg]
  exact Prod.mk.inj hword

end

/-- Settles O34: in a consistent state the reducer and the flags are those of one configuration, for which MULSEQ is
exact in the safe domain. -/
theorem mulOnTheMachineIsExactInTheSafeDomain : Obligations.MulOnTheMachineIsExactInTheSafeDomain := by
  intro s hs hcomp heven hwarn ha hb
  obtain ⟨-, hphase, hop⟩ := id hcomp
  obtain ⟨hred, hflags⟩ := hs.configured (hs.running_configured hphase (by rw [hop]; rfl))
  obtain ⟨hres, hovf⟩ := mulseq_of_safe (n := s.engine.cfgN) ((congrArg CfgFlags.modEven hflags).symm.trans heven)
    ((congrArg CfgFlags.rangeWarn hflags).symm.trans hwarn) ha hb
  have hcfgOvf : s.engine.flag .cfgOvf = (configure s.engine.cfgN).2.cfgOvf := congrArg CfgFlags.cfgOvf hflags
  rw [← hred, ← hcfgOvf] at hres hovf
  exact ⟨_, exec_completing hcomp, hres, by simpa [commitOf] using hovf, by simp, by simp⟩

end Sys2Proof.Machine

namespace Sys2Proof.Machine

/-! ## Who may change what -/

/-- A completion step that is not `c`'s completes another command. -/
theorem State.op_ne_of_not_nextCompletes {s : State} {c : Command} (h : ¬s.nextCompletes c)
    (hp : s.engine.phase = .busy) (hs : s.stream = [] ∨ s.stream.head? = some .complete) : s.engine.snap.op ≠ c :=
  fun hc => h ⟨hp, hc, hs⟩

theorem State.nextIsReset_of_cons {s : State} {rest : List (Event s.width.bits)} (h : s.stream = .reset :: rest) :
    s.nextIsReset := by
  rw [State.nextIsReset, h]
  rfl

/-- Registers of the reducer read the same in engines of the same reducer. -/
theorem readReg_congr_reducer {w : Nat} {e' e : Engine w} (h : e'.reducer = e.reducer) {reg : Reg}
    (hreg : reg = .cfgN ∨ reg = .r ∨ reg = .x ∨ reg = .nprime ∨ reg = .r2) : e'.readReg reg = e.readReg reg := by
  simp only [Engine.reducer, Reducer.mk.injEq] at h
  obtain ⟨hcfgN, hr, hx, hnprime, hr2⟩ := h
  rcases hreg with rfl | rfl | rfl | rfl | rfl <;> assumption

/-- Settles O37: of the things a step can do, only CONFIG's completion and reset do not leave the configuration as it
is. -/
theorem reducerChangesOnlyByConfigOrReset : Obligations.ReducerChangesOnlyByConfigOrReset := by
  intro s t hstep hconfig hreset
  obtain ⟨e, rest, who, reply, rfl, hcase⟩ := step_cases hstep
  have hsame : SameConfiguration e s.engine := by
    obtain ⟨rfl, -⟩ | ⟨-, -, reg, v, -, -, -, rfl⟩ | ⟨-, -, v, -, -, rfl⟩ | ⟨hp, hs, rfl⟩ | ⟨hs, -⟩ := hcase
    · exact .refl _
    · exact s.engine.storeReg_sameConfiguration reg _
    · exact s.engine.commandRequest_induction (P := fun e => SameConfiguration e s.engine) _
        s.engine.reject_sameConfiguration fun c _ => s.engine.accept_sameConfiguration c
    · exact (Engine.finish_sameConfiguration _).trans
        (commitOf_sameConfiguration _ (State.op_ne_of_not_nextCompletes hconfig hp hs))
    · exact absurd (State.nextIsReset_of_cons hs) hreset
  exact ⟨fun reg hreg => congrArg BitVec.toNat (readReg_congr_reducer hsame.reducer hreg), hsame.cfgValid,
    hsame.configFlags⟩

/-- Settles O38: a store and a request do not write RESULT, and neither do the completions of NOP and CONFIG. -/
theorem resultChangesOnlyByMulRedcOrReset : Obligations.ResultChangesOnlyByMulRedcOrReset := by
  intro s t hstep hmul hredc hreset
  obtain ⟨e, rest, who, reply, rfl, hcase⟩ := step_cases hstep
  suffices e.result = s.engine.result from congrArg BitVec.toNat this
  obtain ⟨rfl, -⟩ | ⟨-, -, reg, v, -, -, -, rfl⟩ | ⟨-, -, v, -, -, rfl⟩ | ⟨hp, hs, rfl⟩ | ⟨hs, -⟩ := hcase
  · rfl
  · rw [Engine.storeReg_eq]
  · exact s.engine.commandRequest_induction (P := fun e => e.result = s.engine.result) _ (fun _ => rfl) fun _ _ => rfl
  · have hop : needsConfig s.engine.snap.op = false := Bool.eq_false_iff.2 fun hn =>
      ((needsConfig_iff _).1 hn).elim (State.op_ne_of_not_nextCompletes hmul hp hs)
        (State.op_ne_of_not_nextCompletes hredc hp hs)
    rw [Engine.finish_result, commitOf_result _ hop]
  · exact absurd (State.nextIsReset_of_cons hs) hreset

/-- Settles O39: a store to another register, a request and a completion leave the operand as it is. -/
theorem operandsChangeOnlyByTheHostOrReset : Obligations.OperandsChangeOnlyByTheHostOrReset := by
  intro s t reg hreg hstep hwrites hreset
  obtain ⟨e, rest, who, reply, rfl, hcase⟩ := step_cases hstep
  suffices e.readReg reg = s.engine.readReg reg from congrArg BitVec.toNat this
  obtain ⟨rfl, -⟩ | ⟨host, word, reg', v, hs, hd, -, rfl⟩ | ⟨-, -, v, -, -, rfl⟩ | ⟨hp, hs, rfl⟩ | ⟨hs, -⟩ := hcase
  · rfl
  · refine readReg_storeReg_of_ne _ ?_ _
    rintro rfl
    exact hwrites ⟨host, word, rest, v, hs, hd⟩
  · exact s.engine.commandRequest_induction (P := fun e => e.readReg reg = s.engine.readReg reg) _
      (fun _ => by rcases hreg with rfl | rfl | rfl <;> rfl) fun _ _ => by rcases hreg with rfl | rfl | rfl <;> rfl
  · rcases hreg with rfl | rfl | rfl <;> simp [Engine.readReg]
  · exact absurd (State.nextIsReset_of_cons hs) hreset

/-! ## What is never read -/

/-- A completion takes its operands from the snapshot, so that it commutes with a change of N, A and B
(10_state.md R46). -/
theorem commitOf_finish_operands {w : Nat} (c : Command) (e : Engine w) (n a b : Word w) :
    (commitOf c { e with n := n, a := a, b := b }).finish =
      { (commitOf c e).finish with n := n, a := a, b := b } := by
  cases c <;> rfl

/-- Settles O40. -/
theorem completionIgnoresTheLiveOperands : Obligations.CompletionIgnoresTheLiveOperands := by
  intro s hp
  refine ⟨(commitOf s.engine.snap.op s.engine).finish, fun n a b => ?_⟩
  have hcomp : State.completing
      { s with engine := { s.engine with n := n, a := a, b := b }, agent := .engine } s.engine.snap.op :=
    ⟨rfl, hp, rfl⟩
  rw [exec_completing hcomp, commitOf_finish_operands]

/-- A request is decided by STATUS and the value written alone: engines of one STATUS reject it with one cause or accept
one command. -/
theorem Engine.commandRequest_of_same_status {w : Nat} {e e' : Engine w} (h : e'.status = e.status) (v : Word w) :
    (∃ cause, e.commandRequest v = e.reject cause ∧ e'.commandRequest v = e'.reject cause) ∨
      ∃ c, e.commandRequest v = e.accept c ∧ e'.commandRequest v = e'.accept c := by
  have hflag (f : Flag) : e'.flag f = e.flag f := congrArg (getFlag · f) h
  unfold Engine.commandRequest
  rw [hflag, hflag]
  split
  next => exact .inl ⟨_, rfl, rfl⟩
  next =>
    cases decodeCmd v with
    | error cause => exact .inl ⟨_, rfl, rfl⟩
    | ok c =>
      dsimp only
      split
      next => exact .inl ⟨_, rfl, rfl⟩
      next => exact .inr ⟨_, rfl, rfl⟩

/-- The state with other contents of the snapshot. -/
def State.withSnapshot (s : State) (p : Snapshot s.width.bits) : State :=
  { s with engine := { s.engine with snap := p } }

/-- Two outcomes are next states that differ at most in the snapshot, and not at all when a command runs. -/
def SameButIdleSnapshot (o o' : Host.Outcome State Fault Refusal) : Prop :=
  ∃ (t : State) (q : Snapshot t.width.bits), o = .next t ∧ o' = .next (t.withSnapshot q) ∧
    (t.engine.phase = .busy → t.withSnapshot q = t)

theorem sameButIdleSnapshot_of_idle {t : State} (h : t.engine.phase = .idle) (q : Snapshot t.width.bits) :
    SameButIdleSnapshot (.next t) (.next (t.withSnapshot q)) := ⟨t, q, rfl, rfl, fun hb => by simp [h] at hb⟩

/-- A write to CMD reads no snapshot, and an acceptance overwrites it. -/
theorem exec_request_snapshot {s : State} (hidle : s.engine.phase = .idle) (p : Snapshot s.width.bits) (v : Nat) :
    SameButIdleSnapshot (exec (.portWrite .cmd v) s) (exec (.portWrite .cmd v) (s.withSnapshot p)) := by
  obtain ⟨cause, hq, hq'⟩ | ⟨c, hq, hq'⟩ := Engine.commandRequest_of_same_status
    (e := s.engine) (e' := { s.engine with snap := p }) rfl (BitVec.ofNat s.width.bits v)
  · exact ⟨{ s with engine := s.engine.reject cause }, p, exec_request_of_eq hq,
      exec_request_of_eq (s := s.withSnapshot p) hq', fun hb => by cases hidle.symm.trans hb⟩
  · exact ⟨{ s with engine := s.engine.accept c }, (s.engine.accept c).snap, exec_request_of_eq hq,
      exec_request_of_eq (s := s.withSnapshot p) hq', fun _ => rfl⟩

/-- No transaction reads a snapshot. -/
theorem exec_decodePort_snapshot {s : State} (hidle : s.engine.phase = .idle) (p : Snapshot s.width.bits)
    (word : PortWord s.width.bits) :
    SameButIdleSnapshot (exec (decodePort word) s) (exec (decodePort word) (s.withSnapshot p)) := by
  obtain ⟨reg, hd⟩ | ⟨reg, v, hd⟩ := decodePort_cases word <;> rw [hd]
  · rw [exec_portRead, exec_portRead]
    have hread : (s.withSnapshot p).engine.readReg reg = s.engine.readReg reg := by cases reg <;> rfl
    rw [hread]
    exact sameButIdleSnapshot_of_idle (t := { s with reply := some (s.engine.readReg reg) }) hidle p
  · by_cases hr : reg = .cmd
    · subst hr
      exact exec_request_snapshot hidle p v
    · have hstore : exec (.portWrite reg v) (s.withSnapshot p) =
          .next (State.withSnapshot { s with engine := s.engine.storeReg reg (BitVec.ofNat _ v) } p) := by
        cases reg
        case cmd => exact absurd rfl hr
        all_goals rfl
      have hphase : (s.engine.storeReg reg (BitVec.ofNat _ v)).phase = .idle := by rw [Engine.storeReg_eq, hidle]
      rw [hstore, exec_portWrite, if_neg hr]
      exact sameButIdleSnapshot_of_idle (t := { s with engine := s.engine.storeReg reg (BitVec.ofNat _ v) }) hphase p

/-- A step of an IDLE engine reads no snapshot. -/
theorem step_snapshot {s : State} (hidle : s.engine.phase = .idle) (p : Snapshot s.width.bits) :
    SameButIdleSnapshot (step s) (step (s.withSnapshot p)) := by
  have hidle' : (s.withSnapshot p).engine.phase = .idle := hidle
  cases hs : s.stream with
  | nil =>
    rw [step_empty_idle hs hidle, step_empty_idle (s := s.withSnapshot p) hs hidle']
    exact sameButIdleSnapshot_of_idle hidle p
  | cons ev rest =>
    cases ev with
    | complete =>
      rw [step_complete_idle hs hidle, step_complete_idle (s := s.withSnapshot p) hs hidle']
      exact sameButIdleSnapshot_of_idle (t := { s with stream := rest }) hidle p
    | reset =>
      rw [step_reset hs, step_reset (s := s.withSnapshot p) hs]
      exact sameButIdleSnapshot_of_idle (t := { s with engine := s.engine.resetInput, stream := rest, reply := none })
        rfl p
    | port host word =>
      rw [step_port hs, step_port (s := s.withSnapshot p) hs]
      exact exec_decodePort_snapshot (s := { s with stream := rest, agent := .host host, reply := none }) hidle p word

/-- Settles O41: no step of an IDLE engine reads its snapshot (`step_snapshot`). -/
theorem idleSnapshotIsNeverRead : Obligations.IdleSnapshotIsNeverRead := by
  intro s p t t' hidle hstep hstep'
  obtain ⟨u, q, hu, hu', hbusy⟩ := step_snapshot hidle p
  cases hstep.symm.trans hu
  cases hstep'.symm.trans hu'
  exact ⟨⟨q, rfl⟩, hbusy⟩

end Sys2Proof.Machine

namespace Sys2Proof.Machine

/-! ## The decoder on the words of the encoder (30_encoding.md R80) -/

/-- A port word as a number: `we` and `idx` above the data field. -/
theorem portNumber_eq (w : Nat) (we : Bool) (idx : RegIndex) (d : Nat) :
    portNumber w we idx d = d + 2 ^ w * (we.toNat * 16 + idx.toNat) := by
  unfold portNumber
  ring

/-- The number above the data field of a port word is made of `we` and `idx`. -/
theorem portNumber_div {w : Nat} (we : Bool) (idx : RegIndex) {d : Nat} (hd : d < 2 ^ w) :
    portNumber w we idx d / 2 ^ w = we.toNat * 16 + idx.toNat := by
  rw [portNumber_eq, Nat.add_mul_div_left _ _ (Nat.two_pow_pos w), Nat.div_eq_of_lt hd, Nat.zero_add]

theorem portNumber_mod {w : Nat} (we : Bool) (idx : RegIndex) {d : Nat} (hd : d < 2 ^ w) :
    portNumber w we idx d % 2 ^ w = d := by
  rw [portNumber_eq, Nat.add_mul_mod_self_left, Nat.mod_eq_of_lt hd]

/-- The decoder reads the three fields of a port word back, at every width. -/
theorem decodePort_portNumber {w : Nat} (we : Bool) (idx : RegIndex) {d : Nat} (hd : d < 2 ^ w) :
    decodePort (BitVec.ofNat (w + 5) (portNumber w we idx d) : PortWord w) =
      if we then .portWrite (Reg.ofIndex idx) d else .portRead (Reg.ofIndex idx) := by
  have hidx : idx.toNat < 16 := idx.isLt
  have hnum : (BitVec.ofNat (w + 5) (portNumber w we idx d)).toNat = portNumber w we idx d := by
    rw [BitVec.toNat_ofNat, Nat.mod_eq_of_lt (Laws.portNumber_lt w we idx d hd)]
  generalize hv : BitVec.ofNat (w + 5) (portNumber w we idx d) = v at hnum
  have hwe : v.getLsbD (w + 4) = we := by
    have htop : (we.toNat * 16 + idx.toNat) / 2 ^ 4 = we.toNat := by omega
    rw [BitVec.getLsbD, Nat.testBit_eq_decide_div_mod_eq, hnum, pow_add, ← Nat.div_div_eq_div_mul,
      portNumber_div we idx hd, htop]
    cases we <;> rfl
  have hfield : v.extractLsb' w 4 = idx := by
    apply BitVec.eq_of_toNat_eq
    rw [BitVec.extractLsb'_toNat, Nat.shiftRight_eq_div_pow, hnum, portNumber_div we idx hd]
    omega
  have hdata : (v.setWidth w).toNat = d := by rw [BitVec.toNat_setWidth, hnum, portNumber_mod we idx hd]
  rw [decodePort, hwe, hfield, hdata]

@[simp] theorem Reg.ofIndex_index (reg : Reg) : Reg.ofIndex reg.index = reg := by cases reg <;> rfl

/-! ## A table word as the next step (log 14) -/

/-- A word of the build's command length is carried as a write of it to CMD. -/
theorem decodePort_tableTransaction_command (s : State) {v : Nat} (hv : v < 2 ^ s.width.bits) :
    decodePort (s.tableTransaction s.width.bits v) = .portWrite .cmd v := by
  rw [State.tableTransaction, if_pos le_rfl, Nat.mod_eq_of_lt hv, decodePort_portNumber true _ hv, Reg.ofIndex_index,
    if_pos rfl]

/-- A word of the build's transaction length is carried as it stands. -/
theorem decodePort_tableTransaction_port (s : State) (we : Bool) (reg : Reg) {d : Nat} (hd : d < 2 ^ s.width.bits) :
    decodePort (s.tableTransaction (s.width.bits + 5) (portNumber s.width.bits we reg.index d)) =
      if we then .portWrite reg d else .portRead reg := by
  rw [State.tableTransaction, if_neg (by omega), decodePort_portNumber we _ hd, Reg.ofIndex_index]

/-- The step after a table word was placed runs the transaction that carries it, as host 0's, and takes nothing else
from the stream. -/
theorem step_withFetchWord (s : State) (nbits v : Nat) :
    step (s.withFetchWord nbits v) =
      exec (decodePort (s.tableTransaction nbits v)) { s with agent := .host 0, reply := none } :=
  step_port (s := s.withFetchWord nbits v) rfl

/-- In a host's turn a command is the write of its word to CMD (30_encoding.md R83). -/
theorem exec_portWrite_cmd_word (c : Command) {s : State} {h : Nat} (ha : s.agent = .host h) :
    exec (.portWrite .cmd (c.word s.width.bits).toNat) s = exec c.toInstr s := by
  rw [exec_command_host c s h ha, exec_portWrite, if_pos rfl, BitVec.ofNat_toNat, BitVec.setWidth_eq]

/-- The command word of a command, placed, makes the next step that command in host 0's turn. -/
theorem step_withFetchWord_command (s : State) (c : Command) :
    step (s.withFetchWord s.width.bits (c.word s.width.bits).toNat) =
      exec c.toInstr { s with agent := .host 0, reply := none } := by
  rw [step_withFetchWord, decodePort_tableTransaction_command s (BitVec.isLt _)]
  exact exec_portWrite_cmd_word c (s := { s with agent := .host 0, reply := none }) rfl

/-- Settles O9: a command's word reaches the port as a write to CMD, a transaction's word as it stands. -/
theorem tableWordIsTheNextStep : Obligations.TableWordIsTheNextStep := by
  intro s i hi
  cases i with
  | nop => exact step_withFetchWord_command s .nop
  | config => exact step_withFetchWord_command s .config
  | mul => exact step_withFetchWord_command s .mul
  | redc => exact step_withFetchWord_command s .redc
  | portRead reg =>
    rw [step_withFetchWord, encode, decodePort_tableTransaction_port s false reg (Nat.two_pow_pos _)]
    rfl
  | portWrite reg d =>
    rw [step_withFetchWord, encode, decodePort_tableTransaction_port s true reg (of_decide_eq_true hi)]
    rfl

/-- Settles O7: the head of the stream decides what a step runs (`step_port`). -/
theorem stepRunsTheDecodedTransaction : Obligations.StepRunsTheDecodedTransaction := fun _ _ _ _ hs => step_port hs

/-! ## Writes that store nothing (20_memory.md R65) -/

/-- Only N, A and B have storage that a write reaches. -/
theorem Engine.storeReg_eq_self {w : Nat} (e : Engine w) {reg : Reg} (hn : reg ≠ .n) (ha : reg ≠ .a) (hb : reg ≠ .b)
    (v : Word w) : e.storeReg reg v = e := by
  rw [Engine.storeReg_eq, if_neg hn, if_neg ha, if_neg hb]

/-- Settles O16: such a write is no request and its store leaves the engine as it is. -/
theorem portWriteElsewhereIsIgnored : Obligations.PortWriteElsewhereIsIgnored := by
  intro s reg v hcmd hn ha hb
  rw [exec_portWrite, if_neg hcmd, Engine.storeReg_eq_self _ hn ha hb]

end Sys2Proof.Machine

namespace Sys2Proof.Machine

/-! ## Table words: the length tells the format and the build (log 15) -/

theorem cmdFormat_bits (w : Width) : cmdFormat w.bits = some w := by cases w <;> rfl

theorem cmdFormat_bits_add_five (w : Width) : cmdFormat (w.bits + 5) = none := by cases w <;> rfl

theorem portFormat_bits_add_five (w : Width) : portFormat (w.bits + 5) = some w := by cases w <;> rfl

/-- A table word of the build's command length is read by the command decoder. -/
theorem decodeTableWord_of_decodeCmd {w : Width} {v : Word w.bits} {c : Command} (h : decodeCmd v = .ok c) :
    decodeTableWord w.bits v.toNat = some c.toInstr := by
  simp [decodeTableWord, cmdFormat_bits, v.isLt, h]

/-- A table word of a length that stands for the build's transactions is read by the port decoder. -/
theorem decodeTableWord_of_portWord {nbits : Nat} {w : Width} (hcmd : cmdFormat nbits = none)
    (hport : portFormat nbits = some w) (t : PortWord w.bits) :
    decodeTableWord nbits t.toNat = some (decodePort t) := by
  simp [decodeTableWord, hcmd, hport, t.isLt]

/-! ## Encoding and decoding again (30_encoding.md R80, R83) -/

theorem encode_toInstr (w : Width) (c : Command) : encode w c.toInstr = ⟨w.bits, (c.word w.bits).toNat⟩ := by
  cases c <;> rfl

/-- The fields of a port word fit its W+5 bits, so that as a word it is still that number. -/
theorem toNat_ofNat_portNumber {w : Nat} (we : Bool) (idx : RegIndex) {d : Nat} (hd : d < 2 ^ w) :
    (BitVec.ofNat (w + 5) (portNumber w we idx d)).toNat = portNumber w we idx d := by
  rw [BitVec.toNat_ofNat, Nat.mod_eq_of_lt (Laws.portNumber_lt w we idx d hd)]

/-- The port decoder on a word that names a register by its index. -/
theorem decodePort_portNumber_index {w : Nat} (we : Bool) (reg : Reg) {d : Nat} (hd : d < 2 ^ w) :
    decodePort (BitVec.ofNat (w + 5) (portNumber w we reg.index d) : PortWord w) =
      if we then .portWrite reg d else .portRead reg := by
  rw [decodePort_portNumber we _ hd, Reg.ofIndex_index]

theorem decodeTableWord_command_word (w : Width) (c : Command) :
    decodeTableWord (encode w c.toInstr).bits (encode w c.toInstr).word = some c.toInstr := by
  rw [encode_toInstr]
  exact decodeTableWord_of_decodeCmd (decodeCmd_word w c)

/-- A transaction's word is read at each length that stands for its build's transactions. -/
theorem decodeTableWord_portNumber {nbits : Nat} {w : Width} (hcmd : cmdFormat nbits = none)
    (hport : portFormat nbits = some w) (we : Bool) (reg : Reg) {d : Nat} (hd : d < 2 ^ w.bits) :
    decodeTableWord nbits (portNumber w.bits we reg.index d) =
      some (if we then .portWrite reg d else .portRead reg) := by
  rw [← toNat_ofNat_portNumber we reg.index hd, decodeTableWord_of_portWord hcmd hport,
    decodePort_portNumber_index we reg hd]

/-- Settles O1: a command by the command decoder on its word, a transaction by the port decoder on its fields. -/
theorem decodeOfEncodeIsTheInstruction : Obligations.DecodeOfEncodeIsTheInstruction := by
  intro w i hi
  cases i with
  | nop => exact decodeTableWord_command_word w .nop
  | config => exact decodeTableWord_command_word w .config
  | mul => exact decodeTableWord_command_word w .mul
  | redc => exact decodeTableWord_command_word w .redc
  | portRead reg =>
    exact decodeTableWord_portNumber (cmdFormat_bits_add_five w) (portFormat_bits_add_five w) false reg
      (Nat.two_pow_pos _)
  | portWrite reg d =>
    exact decodeTableWord_portNumber (cmdFormat_bits_add_five w) (portFormat_bits_add_five w) true reg
      (of_decide_eq_true hi)

/-! ## The fields of a port word (30_encoding.md R80) -/

/-- Settles O2: the sum of the fields is the number the encoder makes of them. -/
theorem portFieldsAreReadInPlace : Obligations.PortFieldsAreReadInPlace :=
  fun _ we idx _ hd => decodePort_portNumber we (BitVec.ofFin idx) hd

@[simp] theorem Reg.index_ofIndex (idx : RegIndex) : (Reg.ofIndex idx).index = idx := by
  revert idx
  decide

/-- Every word of W+5 bits is made of a `we`, an `idx` and a `wdata`. -/
theorem exists_portNumber {w : Nat} (t : PortWord w) :
    ∃ (we : Bool) (idx : RegIndex) (d : Nat), d < 2 ^ w ∧ t = BitVec.ofNat (w + 5) (portNumber w we idx d) := by
  have hhigh : t.toNat / 2 ^ w < 32 := Nat.div_lt_of_lt_mul (by simpa [pow_add] using t.isLt)
  refine ⟨decide (16 ≤ t.toNat / 2 ^ w), BitVec.ofNat 4 (t.toNat / 2 ^ w), t.toNat % 2 ^ w,
    Nat.mod_lt _ (Nat.two_pow_pos w), ?_⟩
  have hfields : (decide (16 ≤ t.toNat / 2 ^ w)).toNat * 16 + (BitVec.ofNat 4 (t.toNat / 2 ^ w)).toNat =
      t.toNat / 2 ^ w := by
    by_cases htop : 16 ≤ t.toNat / 2 ^ w <;> simp [htop] <;> omega
  rw [portNumber_eq, hfields, Nat.mod_add_div, BitVec.ofNat_toNat, BitVec.setWidth_eq]

/-- `we` is the top bit of a port word: the other fields stay below it. -/
theorem two_pow_le_portNumber_iff {w : Nat} (we : Bool) (idx : RegIndex) {d : Nat} (hd : d < 2 ^ w) :
    2 ^ (w + 4) ≤ portNumber w we idx d ↔ we = true := by
  have hidx : idx.toNat < 16 := idx.isLt
  rw [pow_add, mul_comm, ← Nat.le_div_iff_mul_le (Nat.two_pow_pos w), portNumber_div we idx hd]
  cases we with
  | true => simp
  | false => simpa using hidx

/-- Without its data a port word is its upper fields alone. -/
theorem portNumber_zero_data {w : Nat} (we : Bool) (idx : RegIndex) {d : Nat} (hd : d < 2 ^ w) :
    portNumber w we idx 0 = portNumber w we idx d / 2 ^ w * 2 ^ w := by
  rw [portNumber_div we idx hd, portNumber_eq, Nat.zero_add, mul_comm]

/-- Settles O3: a word is made of its fields, and the encoder puts the ones that the decoder kept back in place. -/
theorem everyPortWordIsATransaction : Obligations.EveryPortWordIsATransaction := by
  intro w t
  obtain ⟨we, idx, d, hd, rfl⟩ := exists_portNumber t
  simp only [decodePort_portNumber we idx hd, toNat_ofNat_portNumber we idx hd, two_pow_le_portNumber_iff we idx hd]
  cases we with
  | true =>
    refine ⟨decide_eq_true hd, ?_⟩
    simp only [if_true, portForm, Reg.index_ofIndex, toNat_ofNat_portNumber true idx hd]
  | false =>
    refine ⟨rfl, ?_⟩
    simp only [Bool.false_eq_true, if_false, portForm, Reg.index_ofIndex, ← portNumber_zero_data false idx hd,
      toNat_ofNat_portNumber false idx (Nat.two_pow_pos _)]

/-! ## Command words (30_encoding.md R81 to R85) -/

/-- The opcode map, value by value. -/
theorem Command.ofOpcode_eq (op : Opcode) :
    Command.ofOpcode op =
      if op.toNat = 0 then some .nop
      else if op.toNat = 1 then some .config
      else if op.toNat = 2 then some .mul
      else if op.toNat = 3 then some .redc
      else none := by
  unfold Command.ofOpcode
  split <;> simp_all

/-- The reserved bits W-1:8 are 0 exactly in the numbers below 256. -/
theorem shiftRight_eight_eq_zero_iff {w : Nat} (v : Word w) : v >>> 8 = 0 ↔ v.toNat < 256 := by
  rw [← BitVec.toNat_inj, BitVec.toNat_ushiftRight, Nat.shiftRight_eq_div_pow]
  simp

theorem decodeCmd_of_reserved {w : Nat} {v : Word w} (h : 256 ≤ v.toNat) : decodeCmd v = .error .reservedBits := by
  rw [decodeCmd, if_pos (by rw [Ne, shiftRight_eight_eq_zero_iff]; omega)]

/-- With the reserved bits 0 the opcode map decides, at the number the word is. -/
theorem decodeCmd_of_lt {w : Nat} {v : Word w} (h : v.toNat < 256) :
    decodeCmd v =
      if v.toNat = 0 then .ok .nop
      else if v.toNat = 1 then .ok .config
      else if v.toNat = 2 then .ok .mul
      else if v.toNat = 3 then .ok .redc
      else .error .illegalOpcode := by
  have hop : (v.setWidth 8).toNat = v.toNat := by rw [BitVec.toNat_setWidth, Nat.mod_eq_of_lt h]
  rw [decodeCmd, if_neg (not_not.2 ((shiftRight_eight_eq_zero_iff v).2 h)), Command.ofOpcode_eq, hop]
  split_ifs <;> rfl

/-- Settles O4: the reserved bits come before the opcode. -/
theorem commandWordsDecodeToOneOutcome : Obligations.CommandWordsDecodeToOneOutcome := by
  intro w v
  by_cases h : 256 ≤ v.toNat
  · rw [if_pos h, decodeCmd_of_reserved h]
  · rw [if_neg h, decodeCmd_of_lt (by omega)]

/-! ## A host's transaction for an instruction (30_encoding.md R83, R86) -/

/-- A command's word, as a number, is its opcode: every build's W is above 8. -/
theorem toNat_command_word (w : Width) (c : Command) : (c.word w.bits).toNat = c.opcode.toNat :=
  BitVec.toNat_setWidth_of_le (le_trans (by decide) (sixteen_le_bits w))

theorem portForm_toInstr (w : Width) (c : Command) :
    portForm w c.toInstr =
      BitVec.ofNat (w.bits + 5) (portNumber w.bits true Reg.cmd.index (c.word w.bits).toNat) := by
  cases c <;> rfl

/-- A command is sent as the write of its opcode to CMD. -/
theorem decodePort_portForm_toInstr (w : Width) (c : Command) :
    decodePort (portForm w c.toInstr) = .portWrite .cmd c.opcode.toNat := by
  rw [portForm_toInstr, decodePort_portNumber_index true _ (BitVec.isLt _), if_pos rfl, toNat_command_word]

/-- Settles O5: a command by its write to CMD, a transaction by its fields. -/
theorem hostFormDecodes : Obligations.HostFormDecodes := by
  intro w i hi
  cases i with
  | nop => exact decodePort_portForm_toInstr w .nop
  | config => exact decodePort_portForm_toInstr w .config
  | mul => exact decodePort_portForm_toInstr w .mul
  | redc => exact decodePort_portForm_toInstr w .redc
  | portRead reg => exact decodePort_portNumber_index false reg (Nat.two_pow_pos _)
  | portWrite reg d => exact decodePort_portNumber_index true reg (of_decide_eq_true hi)

/-- In a host's turn a command is the write of its opcode to CMD. -/
theorem exec_portWrite_cmd_opcode (c : Command) {s : State} {h : Nat} (ha : s.agent = .host h) :
    exec (.portWrite .cmd c.opcode.toNat) s = exec c.toInstr s := by
  rw [← toNat_command_word s.width c, exec_portWrite_cmd_word c ha]

/-- Settles O20, command by command. -/
theorem commandInAHostsTurnIsItsRequest : Obligations.CommandInAHostsTurnIsItsRequest := fun _ _ ha =>
  ⟨(exec_portWrite_cmd_opcode .nop ha).symm, (exec_portWrite_cmd_opcode .config ha).symm,
    (exec_portWrite_cmd_opcode .mul ha).symm, (exec_portWrite_cmd_opcode .redc ha).symm⟩

/-! ## Words written out -/

/-- Settles O6: the first six are words of the encoder, at whole bytes for a transaction; in the last a reserved bit is
set. -/
theorem writtenOutWordsDecode : Obligations.WrittenOutWordsDecode :=
  ⟨decodeTableWord_portNumber (w := .w64) rfl rfl true .n (d := 7) (by decide),
    decodeTableWord_portNumber (w := .w64) rfl rfl true .a (d := 0xffffffffffffffff) (by decide),
    decodeTableWord_portNumber (w := .w64) rfl rfl false .params (d := 0) (by decide),
    decodeTableWord_portNumber (w := .w16) rfl rfl true .n (d := 161) (by decide),
    decodeTableWord_command_word .w64 .config,
    decodeTableWord_command_word .w64 .redc,
    by decide⟩

end Sys2Proof.Machine

namespace Sys2Proof.Machine

/-! ## REDC and MULSEQ of an engine, on integers (42_redc.md R160, 43_multiply.md R180) -/

/-- REDC with the present reducer constants is the rule on integers. -/
theorem Engine.redc_reducer {w : Width} (e : Engine w.bits) (T : Word w.bits) :
    ((redc e.reducer T).1.toNat, (redc e.reducer T).2) = e.redcInt T.toNat :=
  redc_toNat w e.reducer T

/-- MULSEQ with the present reducer constants and CFG_OVF is the rule on integers. -/
theorem Engine.mulseq_reducer {w : Width} (e : Engine w.bits) (a b : Word w.bits) :
    ((mulseq e.reducer (e.flag .cfgOvf) a b).1.toNat, (mulseq e.reducer (e.flag .cfgOvf) a b).2) =
      e.mulInt a.toNat b.toNat :=
  mulseq_toNat w e.reducer (e.flag .cfgOvf) a b

/-! ## Completions that write OVF (40_host_port.md R103, R104) -/

/-- A completion that writes OVF writes bits 0, 1 and 8 and nothing else. -/
theorem getLsbD_finishStatus_putFlag_ovf {w : Width} (v : Word w.bits) (b : Bool) (j : Nat) :
    (finishStatus (putFlag v .ovf b)).getLsbD j =
      if j = 0 then false else if j = 1 then true else if j = 8 then b else v.getLsbD j := by
  have hpos : Flag.ovf.pos = 8 := rfl
  rw [getLsbD_finishStatus, getLsbD_putFlag, hpos]
  by_cases h0 : j = 0
  · simp [h0]
  · simp only [if_neg h0]

/-- Settles O23: the completion is `redcComplete`, whose values are those of the rule on integers. -/
theorem redcCompletes : Obligations.RedcCompletes := by
  intro s hs
  have hint := s.engine.redc_reducer s.engine.snap.a
  refine ⟨_, _, exec_completing hs, congrArg Prod.fst hint, fun i => ?_⟩
  rw [← hint]
  exact getLsbD_finishStatus_putFlag_ovf _ _ i

/-- Settles O24: the completion is `mulComplete`, whose values are those of the rule on integers. -/
theorem mulCompletes : Obligations.MulCompletes := by
  intro s hs
  have hint := s.engine.mulseq_reducer s.engine.snap.a s.engine.snap.b
  refine ⟨_, _, exec_completing hs, congrArg Prod.fst hint, fun i => ?_⟩
  rw [← hint]
  exact getLsbD_finishStatus_putFlag_ovf _ _ i

/-- Settles O21: NOP's own completion only clears OVF. -/
theorem nopCompletes : Obligations.NopCompletes := by
  intro s hs
  refine ⟨_, exec_completing hs, fun i => (getLsbD_finishStatus_putFlag_ovf _ _ i).trans ?_⟩
  by_cases h0 : i = 0
  · simp [h0]
  · simp only [h0, if_false, false_or]

/-! ## The engine's turn in the order of steps (20_memory.md R68, logs 3 and 4) -/

/-- A completion step of the stream is the engine's turn. -/
theorem State.fetch_complete {s : State} {rest : List (Event s.width.bits)} (hs : s.stream = .complete :: rest) :
    s.fetch = State.engineTurn { s with stream := rest } := by
  simp only [State.fetch, hs]

/-- The end of the stream is the engine's turn. -/
theorem State.fetch_empty {s : State} (hs : s.stream = []) : s.fetch = s.engineTurn := by
  simp only [State.fetch, hs]

/-- Settles O8: a BUSY engine uses its turn to run the accepted command. -/
theorem stepRunsTheAcceptedCommand : Obligations.StepRunsTheAcceptedCommand := fun s hp =>
  ⟨fun _ hs => step_run ((State.fetch_complete hs).trans (State.engineTurn_busy _ hp)),
    fun hs => step_run ((State.fetch_empty hs).trans (State.engineTurn_busy s hp))⟩

/-- Settles O11, at the end of the stream and at a completion step. -/
theorem idleEngineStaysAsItIs : Obligations.IdleEngineStaysAsItIs := fun _ hp =>
  ⟨fun hs => step_empty_idle hs hp, fun _ hs => step_complete_idle hs hp⟩

end Sys2Proof.Machine

namespace Sys2Proof.Machine

/-! ## INVSOLVE on the machine's words (41_configure.md R131) -/

/-- Settles O27: before each iteration the words and the integers agree on as many low bits of `tmp` as iterations are
left (`invLoop_np`), so that no parity test sees the wrap. -/
theorem inverseSolverWrapIsHarmless : Obligations.InverseSolverWrapIsHarmless := fun w n _ hx => invsolve_toNat w n hx

/-! ## Idempotence of construction (41_configure.md R134, R135) -/

/-- Writing a flag with the value it has changes nothing. -/
theorem putFlag_eq_self {w : Width} {v : Word w.bits} {f : Flag} {b : Bool} (h : getFlag v f = b) :
    putFlag v f b = v := by
  apply BitVec.eq_of_getLsbD_eq
  intro j _
  rw [getLsbD_putFlag]
  split
  next hj => rw [hj, ← h, getFlag]
  next => rfl

/-- CONFIG's flag writes, given the configuration flags that a configured engine already holds, only set OVF to
CFG_OVF. -/
theorem Engine.configStatus_configFlags {w : Width} {e : Engine w.bits} (hvalid : e.flag .cfgValid = true) :
    configStatus e.status e.configFlags = putFlag e.status .ovf (e.flag .cfgOvf) := by
  have same (f : Flag) : putFlag e.status f (e.flag f) = e.status := putFlag_eq_self rfl
  simp only [configStatus, Engine.configFlags, putFlag_eq_self hvalid, same]

/-- CONFIG's own completion, in an engine that holds the constants of the snapshot's modulus, writes STATUS only. -/
theorem Engine.configComplete_of_reducer {w : Nat} {e : Engine w} (hred : e.reducer = (configure e.snap.n).1) :
    e.configComplete = { e with status := configStatus e.status (configure e.snap.n).2 } := by
  rw [Engine.configComplete, ← hred]
  rfl

/-- Settles O25: a consistent engine holds the constants and flags of CFG_N, the snapshot's modulus, so that CONFIG
writes each of them with its own value. -/
theorem reconfiguringTheSameModulusChangesNothing : Obligations.ReconfiguringTheSameModulusChangesNothing := by
  intro s hs hcomp hvalid hn
  obtain ⟨hred, hflags⟩ := hs.configured hvalid
  rw [← hn] at hred hflags
  have hcommit : commitOf .config s.engine =
      { s.engine with status := putFlag s.engine.status .ovf (s.engine.flag .cfgOvf) } := by
    rw [← Engine.configStatus_configFlags hvalid, hflags]
    exact Engine.configComplete_of_reducer hred
  refine ⟨finishStatus (putFlag s.engine.status .ovf (s.engine.flag .cfgOvf)), ?_, fun i hi => ?_⟩
  · refine (exec_completing hcomp).trans ?_
    rw [hcommit, Engine.finish]
  · obtain ⟨h0, h1, h8⟩ : i ≠ 0 ∧ i ≠ 1 ∧ i ≠ 8 := by omega
    rw [getLsbD_finishStatus_putFlag_ovf, if_neg h0, if_neg h1, if_neg h8]

end Sys2Proof.Machine

namespace Sys2Proof.Machine

/-! ## The mask of REDC (42_redc.md R160) -/

/-- REDC's `m` is the exact remainder, for the constants of every modulus. -/
theorem redc_mask_toNat {w : Width} (n T : Word w.bits) :
    ((T * (configure n).1.nprime) &&& ((configure n).1.r - 1)).toNat =
      T.toNat * (configure n).1.nprime.toNat % 2 ^ (radix n).1 := by
  rw [BitVec.toNat_and, BitVec.toNat_mul, sub_one_toNat, configure_r, radix_snd_toNat, redcInt_mask (radix_fst_le n)]

/-- Settles O31: 2^x divides 2^W, so that the mask on the wrapped product keeps the exact remainder. -/
theorem redcMaskIsTheRemainder : Obligations.RedcMaskIsTheRemainder := by
  intro w n T
  dsimp only
  rw [configure_x_toNat]
  exact redc_mask_toNat n T

/-! ## The properties of REDC (42_redc.md R163) -/

/-- With a radix that fits, REDC reports a wrap whenever the exact sum does not fit: `wraps(m·n)` and `wraps(T + u)`
together miss none. -/
theorem redc_sum_lt_of_no_wrap {W n x np T : Nat} (hx : x < W) (h : (redcInt W n (2 ^ x) x np T).2 = false) :
    T + T * np % 2 ^ x * n < 2 ^ W := by
  have hmask := redcInt_mask (v := T * np) hx.le
  rw [Nat.mod_eq_of_lt (Nat.pow_lt_pow_right Nat.one_lt_two hx)] at hmask
  simp only [redcInt, hmask, decide_eq_false_iff_not, not_or, Nat.not_le] at h
  obtain ⟨hmul, hadd, -⟩ := h
  rwa [Nat.mod_eq_of_lt hmul] at hadd

/-- The remainder `m` is below the radix, so that `m·n` adds less than n to the quotient of T alone. -/
theorem redcQuot_le (n x np T : Nat) : redcQuot n x np T ≤ T / 2 ^ x + n := by
  have hm : T * np % 2 ^ x * n ≤ n * 2 ^ x := by
    rw [Nat.mul_comm n]
    exact Nat.mul_le_mul_right n (Nat.mod_lt _ (Nat.two_pow_pos x)).le
  calc redcQuot n x np T ≤ (T + n * 2 ^ x) / 2 ^ x := Nat.div_le_div_right (Nat.add_le_add_left hm T)
    _ = T / 2 ^ x + n := Nat.add_mul_div_right _ _ (Nat.two_pow_pos x)

/-- The reduction bound of R163: one subtraction is enough for T below n·r. -/
theorem redcQuot_lt_two_mul {n x np T : Nat} (hT : T < n * 2 ^ x) : redcQuot n x np T < 2 * n := by
  have hq : T / 2 ^ x < n := Nat.div_lt_of_lt_mul (Nat.mul_comm n _ ▸ hT)
  have := redcQuot_le n x np T
  omega

/-- With the inverse of an odd modulus, the quotient times the radix is T modulo n. -/
theorem redcQuot_mul_modEq {n x np : Nat} (hnp : n * np % 2 ^ x = 2 ^ x - 1) (T : Nat) :
    redcQuot n x np T * 2 ^ x ≡ T [MOD n] := by
  rw [redcQuot_mul hnp]
  exact Nat.modEq_of_dvd (by simp)

/-- Subtracting the modulus at most once keeps the residue. -/
theorem sub_once_modEq (n q : Nat) : (if n ≤ q then q - n else q) ≡ q [MOD n] := by
  split
  next hle => exact ((Nat.modEq_sub_modulus_iff hle).2 rfl).symm
  next => rfl

theorem sub_once_le (n q : Nat) : (if n ≤ q then q - n else q) ≤ q := by
  split <;> omega

theorem sub_once_lt {n q : Nat} (hq : q < 2 * n) : (if n ≤ q then q - n else q) < n := by
  split <;> omega

section
variable {w : Width} {n T : Word w.bits}

/-- REDC with the constants of a modulus whose radix fits, on integers. -/
theorem redc_configure_toNat (hx : (radix n).1 < w.bits) :
    ((redc (configure n).1 T).1.toNat, (redc (configure n).1 T).2) =
      redcInt w.bits n.toNat (2 ^ (radix n).1) (radix n).1 (invsolve n (radix n).1).toNat T.toNat := by
  rw [redc_toNat, configure_cfgN, configure_r, radix_snd_of_lt hx, configure_x_toNat, configure_nprime]

/-- Without a wrap, REDC subtracts the modulus at most once from the exact quotient. -/
theorem redc_configure_of_no_wrap (hx : (radix n).1 < w.bits) (hw : (redc (configure n).1 T).2 = false) :
    (redc (configure n).1 T).1.toNat =
      if n.toNat ≤ redcQuot n.toNat (radix n).1 (invsolve n (radix n).1).toNat T.toNat then
        redcQuot n.toNat (radix n).1 (invsolve n (radix n).1).toNat T.toNat - n.toNat
      else redcQuot n.toNat (radix n).1 (invsolve n (radix n).1).toNat T.toNat := by
  have hint := redc_configure_toNat (T := T) hx
  have hsum := redc_sum_lt_of_no_wrap hx ((congrArg Prod.snd hint).symm.trans hw)
  exact congrArg Prod.fst (hint.trans (redcInt_of_no_wrap hx hsum))

/-- In the safe domain T below n·r excludes a wrap (item 3 of R163). -/
theorem redc_configure_no_wrap_of_safe (hn : n.toNat % 2 = 1) (hsafe : n.toNat < 2 ^ (w.bits / 2 - 1))
    (hT : T.toNat < n.toNat * 2 ^ (radix n).1) : (redc (configure n).1 T).2 = false := by
  have heven : (configure n).2.modEven = false := Bool.eq_false_iff.2 fun h => by
    have := (modEven_iff n).1 h
    omega
  have hconst := exactConstants_of_safe heven (decide_eq_false (Nat.not_le.2 hsafe))
  obtain ⟨t, ht, -⟩ := hconst.redcInt_reduces hT
  exact congrArg Prod.snd ((redc_configure_toNat hconst.radix_fits).trans ht)

end

/-- Settles O32: the inverse makes the sum a multiple of r, `m < r` bounds the quotient, and the safe domain leaves room
for the sum. The unreduced result is T = 63 at n = 7 (42_redc.md R162). -/
theorem redcReducesExactly : Obligations.RedcReducesExactly := by
  refine ⟨?_, .w16, 7, 63, by decide⟩
  intro w nw T hodd hlt
  have hx : (radix nw).1 < w.bits :=
    radix_lt_of_not_radixOvf (Bool.eq_false_iff.2 fun h => Nat.not_le.2 hlt ((radixOvf_iff_le nw).1 h))
  have hnp := mul_invsolve_mod w hodd (radix_fst_le nw)
  dsimp only
  rw [configure_r, radix_snd_of_lt hx, configure_x_toNat, configure_nprime, ← redcQuot.eq_def]
  refine ⟨rfl, fun hw => ?_, fun hsafe hT => redc_configure_no_wrap_of_safe hodd hsafe hT⟩
  have ht := redc_configure_of_no_wrap hx hw
  refine ⟨two_pow_dvd_redc_sum hnp _, ht, ?_, fun hT => ?_, ?_⟩
  · rw [ht]
    exact ((sub_once_modEq _ _).mul_right _).trans (redcQuot_mul_modEq hnp _)
  · have hq := redcQuot_lt_two_mul (np := (invsolve nw (radix nw).1).toNat) hT
    exact ⟨hq, ht.trans_lt (sub_once_lt hq)⟩
  · exact (ht.le.trans (sub_once_le _ _)).trans (redcQuot_le _ _ _ _)

/-! ## The moduli 0, 1 and the powers of two (42_redc.md R162, 43_multiply.md R181) -/

/-- For n = 0 the radix is 1, the remainder modulo it 0, and REDC the identity. -/
theorem redc_configure_zero (w : Width) (T : Word w.bits) : redc (configure (0 : Word w.bits)).1 T = (T, false) := by
  have hx : (radix (0 : Word w.bits)).1 = 0 := radix_fst_of_zero rfl
  have hint := redc_configure_toNat (T := T) (hx ▸ bits_pos w)
  rw [hx, redcInt_of_no_wrap (bits_pos w) (by simpa using T.isLt)] at hint
  obtain ⟨hval, hwrap⟩ := Prod.mk.inj hint
  exact Prod.ext (BitVec.eq_of_toNat_eq (by simpa [redcQuot] using hval)) hwrap

theorem configure_zero_r2 (w : Width) : (configure (0 : Word w.bits)).1.r2 = 1 := by
  obtain ⟨-, -, -, hzero, -⟩ := conversionConstantIsRSquared w 0
  exact BitVec.eq_of_toNat_eq ((hzero rfl).trans (one_toNat w).symm)

theorem configure_zero_cfgOvf (w : Width) : (configure (0 : Word w.bits)).2.cfgOvf = false :=
  (not_overflow_of_not_rangeWarn (decide_eq_false (Nat.not_le.2 (Nat.two_pow_pos _)))).2

/-- A multiplication by 1 does not wrap. -/
theorem wrapsMul_one {w : Width} (a : Word w.bits) : wrapsMul a 1 = false := by
  rw [wrapsMul, one_toNat, Nat.mul_one]
  exact decide_eq_false (Nat.not_le.2 a.isLt)

/-- For n = 0 MULSEQ is the product of the words, with its wrap. -/
theorem mulseq_configure_zero (w : Width) (a b : Word w.bits) :
    mulseq (configure (0 : Word w.bits)).1 (configure (0 : Word w.bits)).2.cfgOvf a b = (a * b, wrapsMul a b) := by
  simp only [mulseq, redc_configure_zero, configure_zero_r2, configure_zero_cfgOvf, wrapsMul_one, mul_one,
    Bool.false_or, Bool.or_false]

/-- REDC of 0 is 0, with any constants of a modulus other than 0. -/
theorem redc_zero_fst {w : Nat} {c : Reducer w} (hn : c.cfgN ≠ 0) : (redc c 0).1 = 0 := by
  have hshr : shr (0 : Word w) c.x.toNat = 0 := by simp [shr]
  have hlt : ¬c.cfgN ≤ 0 := fun h => hn (BitVec.le_zero_iff.1 h)
  have hm (v : Word w) : 0 &&& v = 0 := BitVec.zero_and
  simp only [redc, zero_mul, hm, add_zero, hshr, if_neg hlt]

/-- A conversion constant of 0 takes both operands to 0, and so the result. -/
theorem mulseq_fst_of_r2_zero {w : Nat} {c : Reducer w} (hn : c.cfgN ≠ 0) (hr2 : c.r2 = 0) (cfgOvf : Bool)
    (a b : Word w) : (mulseq c cfgOvf a b).1 = 0 := by
  simp only [mulseq, hr2, mul_zero, redc_zero_fst hn]

/-- A power of two divides its radix, and what register R holds of it. -/
theorem configure_r2_of_two_pow {w : Width} {n : Word w.bits} {k : Nat} (hk : n.toNat = 2 ^ k) :
    (configure n).1.r2 = 0 := by
  have hdvd : n.toNat ∣ (radix n).2.toNat := by
    have hkw : k ≤ w.bits := ((Nat.pow_lt_pow_iff_right Nat.one_lt_two).1 (hk ▸ n.isLt)).le
    have hkx : k ≤ (radix n).1 := ((Nat.pow_lt_pow_iff_right Nat.one_lt_two).1 (hk ▸ lt_two_pow_radix n)).le
    rw [radix_snd_toNat, hk]
    exact (Nat.dvd_mod_iff (pow_dvd_pow 2 hkw)).2 (pow_dvd_pow 2 hkx)
  have hres : radixResidue n = 0 := by
    rw [radixResidue, if_neg (hk ▸ (Nat.two_pow_pos k).ne'), Nat.mod_eq_zero_of_dvd hdvd]
  apply BitVec.eq_of_toNat_eq
  rw [configure_r2, r2calc_fst_toNat, hres]
  simp

/-- MUL gives 0 for every power of two, R2 being 0. -/
theorem mulseq_configure_of_two_pow {w : Width} {n : Word w.bits} {k : Nat} (hk : n.toNat = 2 ^ k) (cfgOvf : Bool)
    (a b : Word w.bits) : (mulseq (configure n).1 cfgOvf a b).1 = 0 := by
  refine mulseq_fst_of_r2_zero (fun h0 => ?_) (configure_r2_of_two_pow hk) cfgOvf a b
  have hpos := Nat.two_pow_pos k
  rw [← hk, show n = 0 from h0] at hpos
  simp at hpos

/-- Settles O35: for n = 0 all four reductions of MUL are the identity and R2 is 1; n = 1 is a power of two. -/
theorem cornerCaseModuli : Obligations.CornerCaseModuli := by
  intro w nw a b
  refine ⟨?_, ?_, fun k hk => mulseq_configure_of_two_pow hk _ a b⟩
  · rintro rfl
    exact ⟨redc_configure_zero w a, mulseq_configure_zero w a b⟩
  · rintro rfl
    exact mulseq_configure_of_two_pow (k := 0) (one_toNat w) _ a b

end Sys2Proof.Machine

namespace Sys2Proof.Machine

/-! ## The properties of MUL (43_multiply.md R182) -/

/-- The wrap predicate of MULSEQ misses none of its three products and four reductions. -/
theorem mulseq_no_wrap_iff {w : Nat} (c : Reducer w) (cfgOvf : Bool) (a b : Word w) :
    (mulseq c cfgOvf a b).2 = false ↔
      cfgOvf = false ∧ (wrapsMul a c.r2 = false ∧ (redc c (a * c.r2)).2 = false) ∧
        (wrapsMul b c.r2 = false ∧ (redc c (b * c.r2)).2 = false) ∧
        (wrapsMul (redc c (a * c.r2)).1 (redc c (b * c.r2)).1 = false ∧
          (redc c ((redc c (a * c.r2)).1 * (redc c (b * c.r2)).1)).2 = false) ∧
        (redc c (redc c ((redc c (a * c.r2)).1 * (redc c (b * c.r2)).1)).1).2 = false := by
  simp only [mulseq, Bool.or_eq_false_iff, and_assoc]

section
variable {w : Width} {n : Word w.bits}

theorem radix_lt_of_not_cfgOvf (h : (configure n).2.cfgOvf = false) : (radix n).1 < w.bits :=
  radix_lt_of_not_radixOvf (Bool.eq_false_iff.2 (Bool.eq_false_iff.1 h ∘ cfgOvf_of_radixOvf))

/-- For an odd modulus R2 is a residue, the one of r², unless the configuration reported a wrap. -/
theorem configure_r2_of_odd (hn : n.toNat % 2 = 1) (h : (configure n).2.cfgOvf = false) :
    (configure n).1.r2.toNat ≡ 2 ^ (radix n).1 * 2 ^ (radix n).1 [MOD n.toNat] ∧
      (configure n).1.r2.toNat < n.toNat := by
  have hzero : (configure n).2.modZero = false := Bool.eq_false_iff.2 fun ht => by
    have := (modZero_iff n).1 ht
    omega
  obtain ⟨hval, hlt⟩ := configure_conversion_spec n hzero h
  refine ⟨?_, hlt⟩
  rw [hval, configure_x_toNat, Nat.pow_two]
  exact Nat.mod_modEq _ _

/-- The radix can be cancelled modulo an odd modulus, whatever the size of the modulus. -/
theorem cancel_radix_of_odd (hn : n.toNat % 2 = 1) {c d : Nat}
    (h : c * 2 ^ (radix n).1 ≡ d * 2 ^ (radix n).1 [MOD n.toNat]) : c ≡ d [MOD n.toNat] :=
  Nat.ModEq.cancel_right_of_coprime ((Nat.coprime_two_right.2 (Nat.odd_iff.2 hn)).pow_right _) h

/-- Without a wrap REDC divides by the radix modulo an odd modulus (42_redc.md R163). -/
theorem redc_configure_modEq (hn : n.toNat % 2 = 1) (hx : (radix n).1 < w.bits) {T : Word w.bits}
    (h : (redc (configure n).1 T).2 = false) :
    (redc (configure n).1 T).1.toNat * 2 ^ (radix n).1 ≡ T.toNat [MOD n.toNat] := by
  rw [redc_configure_of_no_wrap hx h]
  exact ((sub_once_modEq _ _).mul_right _).trans (redcQuot_mul_modEq (mul_invsolve_mod w hn (radix_fst_le n)) _)

/-- Without a wrap REDC takes T below n·r to a residue (42_redc.md R163). -/
theorem redc_configure_lt (hx : (radix n).1 < w.bits) {T : Word w.bits} (h : (redc (configure n).1 T).2 = false)
    (hT : T.toNat < n.toNat * 2 ^ (radix n).1) : (redc (configure n).1 T).1.toNat < n.toNat := by
  rw [redc_configure_of_no_wrap hx h]
  exact sub_once_lt (redcQuot_lt_two_mul hT)

/-- Without a wrap REDC takes a product of two residues to a residue, the product being below n², so below n·r. -/
theorem redc_configure_mul_lt (hx : (radix n).1 < w.bits) {c d : Word w.bits} (hmul : wrapsMul c d = false)
    (h : (redc (configure n).1 (c * d)).2 = false) (hc : c.toNat < n.toNat) (hd : d.toNat < n.toNat) :
    (redc (configure n).1 (c * d)).1.toNat < n.toNat := by
  refine redc_configure_lt hx h ?_
  rw [toNat_mul_of_no_wrap hmul]
  exact (Nat.mul_lt_mul'' hc hd).trans_le (Nat.mul_le_mul_left _ (lt_two_pow_radix n).le)

/-- Without a wrap REDC of a product with R2 takes the operand into the Montgomery domain. -/
theorem redc_configure_converts (hn : n.toNat % 2 = 1) (hcfg : (configure n).2.cfgOvf = false) {c : Word w.bits}
    (hmul : wrapsMul c (configure n).1.r2 = false)
    (h : (redc (configure n).1 (c * (configure n).1.r2)).2 = false) :
    (redc (configure n).1 (c * (configure n).1.r2)).1.toNat ≡ c.toNat * 2 ^ (radix n).1 [MOD n.toNat] := by
  obtain ⟨hr2, -⟩ := configure_r2_of_odd hn hcfg
  have hred := redc_configure_modEq hn (radix_lt_of_not_cfgOvf hcfg) h
  rw [toNat_mul_of_no_wrap hmul] at hred
  refine cancel_radix_of_odd hn (hred.trans ?_)
  rw [Nat.mul_assoc]
  exact hr2.mul_left _

variable {a b : Word w.bits}

/-- Item 1 of R182: `ā ≡ a·r` and `b̄ ≡ b·r`, so `c̄ ≡ a·b·r`, and the last reduction takes the radix off. -/
theorem mulseq_configure_modEq (hn : n.toNat % 2 = 1)
    (h : (mulseq (configure n).1 (configure n).2.cfgOvf a b).2 = false) :
    (mulseq (configure n).1 (configure n).2.cfgOvf a b).1.toNat ≡ a.toNat * b.toNat [MOD n.toNat] := by
  obtain ⟨hcfg, ⟨hp1, hw1⟩, ⟨hp2, hw2⟩, ⟨hp3, hw3⟩, hw4⟩ := (mulseq_no_wrap_iff _ _ _ _).1 h
  have hx := radix_lt_of_not_cfgOvf hcfg
  have habar := redc_configure_converts hn hcfg hp1 hw1
  have hbbar := redc_configure_converts hn hcfg hp2 hw2
  have hcbar := redc_configure_modEq hn hx hw3
  rw [toNat_mul_of_no_wrap hp3] at hcbar
  refine cancel_radix_of_odd hn ((redc_configure_modEq hn hx hw4).trans (cancel_radix_of_odd hn (hcbar.trans ?_)))
  rw [Nat.mul_assoc (a.toNat * b.toNat), ← Nat.mul_mul_mul_comm]
  exact habar.mul hbbar

/-- Residues stay residues through every step of MULSEQ (item 2 of R182). -/
theorem mulseq_configure_lt (hn : n.toNat % 2 = 1)
    (h : (mulseq (configure n).1 (configure n).2.cfgOvf a b).2 = false)
    (ha : a.toNat < n.toNat) (hb : b.toNat < n.toNat) :
    (mulseq (configure n).1 (configure n).2.cfgOvf a b).1.toNat < n.toNat := by
  obtain ⟨hcfg, ⟨hp1, hw1⟩, ⟨hp2, hw2⟩, ⟨hp3, hw3⟩, hw4⟩ := (mulseq_no_wrap_iff _ _ _ _).1 h
  have hx := radix_lt_of_not_cfgOvf hcfg
  obtain ⟨-, hr2⟩ := configure_r2_of_odd hn hcfg
  have habar := redc_configure_mul_lt hx hp1 hw1 ha hr2
  have hbbar := redc_configure_mul_lt hx hp2 hw2 hb hr2
  have hcbar := redc_configure_mul_lt hx hp3 hw3 habar hbbar
  exact redc_configure_lt hx hw4 (hcbar.trans_le (Nat.le_mul_of_pos_right _ (Nat.two_pow_pos _)))

end

/-- Settles O33: a residue congruent to a·b is its remainder, and the safe domain excludes a wrap. The unreduced result
is a = 2^60, b = 1 at n = 7 (43_multiply.md R181). -/
theorem mulMultipliesModuloN : Obligations.MulMultipliesModuloN := by
  refine ⟨?_, .w64, 7, BitVec.twoPow 64 60, 1, by decide⟩
  intro w nw a b hodd
  refine ⟨mulseq_configure_modEq hodd, fun hovf ha hb => ?_, fun hsafe ha hb => ?_⟩
  · exact (Nat.mod_eq_of_lt (mulseq_configure_lt hodd hovf ha hb)).symm.trans (mulseq_configure_modEq hodd hovf)
  · have heven : (configure nw).2.modEven = false := Bool.eq_false_iff.2 fun h => by
      have := (modEven_iff nw).1 h
      omega
    exact (mulseq_of_safe heven (decide_eq_false (Nat.not_le.2 hsafe)) ha hb).symm

end Sys2Proof.Machine

namespace Sys2Proof.Machine

/-! ## Rejections (60_exceptions.md R201 to R207) -/

/-- Every bit of STATUS after a rejection, with the code as a number. -/
theorem getLsbD_rejectStatus_of_code {w : Width} (v : Word w.bits) {cause : CmdError} {code : Nat}
    (hcode : (errorCode cause).toNat = code) (i : Nat) :
    (rejectStatus v cause).getLsbD i =
      if i = 2 then true else if 12 ≤ i ∧ i < 16 then code.testBit (i - 12) else v.getLsbD i := by
  rw [getLsbD_rejectStatus, ← hcode, BitVec.testBit_toNat]
  by_cases h2 : i = 2
  · simp [h2]
  · simp only [if_neg h2]

/-- While a command runs, a request of any value is rejected (60_exceptions.md R202). -/
theorem Engine.commandRequest_of_busy {w : Nat} {e : Engine w} (hb : e.flag .busy = true) (v : Word w) :
    e.commandRequest v = e.reject .busy := by
  rw [Engine.commandRequest, if_pos hb]

/-- A word that decodes to no command is rejected with the decoder's cause (60_exceptions.md R203, R204). -/
theorem Engine.commandRequest_of_error {w : Nat} {e : Engine w} {v : Word w} {cause : CmdError}
    (hb : e.flag .busy = false) (hd : decodeCmd v = .error cause) : e.commandRequest v = e.reject cause := by
  simp [Engine.commandRequest, hb, hd]

/-- Before the first CONFIG the commands that need a reducer are rejected (60_exceptions.md R205). -/
theorem Engine.commandRequest_of_unconfigured {w : Width} {e : Engine w.bits} {c : Command}
    (hb : e.flag .busy = false) (hc : needsConfig c = true) (hv : e.flag .cfgValid = false) :
    e.commandRequest (c.word w.bits) = e.reject .notConfigured := by
  simp [Engine.commandRequest, hb, decodeCmd_word, hc, hv]

/-- With the reserved bits 0, the opcodes from 4 on are no command (30_encoding.md R84). -/
theorem decodeCmd_of_illegal {w : Nat} {v : Word w} (h4 : 4 ≤ v.toNat) (h256 : v.toNat < 256) :
    decodeCmd v = .error .illegalOpcode := by
  obtain ⟨h0, h1, h2, h3⟩ : v.toNat ≠ 0 ∧ v.toNat ≠ 1 ∧ v.toNat ≠ 2 ∧ v.toNat ≠ 3 := by omega
  rw [decodeCmd_of_lt h256, if_neg h0, if_neg h1, if_neg h2, if_neg h3]

/-- A write to CMD whose request is rejected writes STATUS alone, and there CMD_ERR and ERRCODE alone
(60_exceptions.md R207). -/
theorem exec_request_rejected {s : State} {v : Nat} {cause : CmdError} {code : Nat}
    (hq : s.engine.commandRequest (BitVec.ofNat _ v) = s.engine.reject cause)
    (hcode : (errorCode cause).toNat = code) :
    ∃ st, exec (.portWrite .cmd v) s = .next { s with engine := { s.engine with status := st } } ∧
      ∀ i, st.getLsbD i =
        if i = 2 then true else if 12 ≤ i ∧ i < 16 then code.testBit (i - 12) else s.engine.status.getLsbD i :=
  ⟨_, exec_request_of_eq hq, getLsbD_rejectStatus_of_code _ hcode⟩

/-- Settles O18, cause by cause in the order of the checks: the reserved bits, the opcode, the configuration. -/
theorem rejectionReportsTheFirstCause : Obligations.RejectionReportsTheFirstCause := by
  intro s v hv hb hcause
  have hval : (BitVec.ofNat s.width.bits v).toNat = v := by rw [BitVec.toNat_ofNat, Nat.mod_eq_of_lt hv]
  by_cases h256 : 256 ≤ v
  · have hd := decodeCmd_of_reserved (hval.symm ▸ h256)
    simp only [if_pos h256]
    exact exec_request_rejected (Engine.commandRequest_of_error hb hd) rfl
  by_cases h4 : 4 ≤ v
  · have hd := decodeCmd_of_illegal (hval.symm ▸ h4) (hval.symm ▸ Nat.lt_of_not_le h256)
    simp only [if_neg h256, if_pos h4]
    exact exec_request_rejected (Engine.commandRequest_of_error hb hd) rfl
  · obtain ⟨h2, hvalid⟩ := hcause.resolve_left h4
    have hword : ∃ c, needsConfig c = true ∧ BitVec.ofNat s.width.bits v = Command.word c s.width.bits := by
      obtain rfl | rfl : v = 2 ∨ v = 3 := by omega
      · exact ⟨.mul, rfl, ofNat_opcode s.width .mul⟩
      · exact ⟨.redc, rfl, ofNat_opcode s.width .redc⟩
    obtain ⟨c, hc, hword⟩ := hword
    simp only [if_neg h256, if_neg h4]
    refine exec_request_rejected (cause := .notConfigured) ?_ rfl
    rw [hword]
    exact Engine.commandRequest_of_unconfigured hb hc hvalid

/-! ## A rejection and a completion commute (60_exceptions.md R202) -/

/-- A rejection writes CMD_ERR and ERRCODE, so that it commutes with the write of any other flag. -/
theorem putFlag_rejectStatus {w : Width} (v : Word w.bits) (cause : CmdError) {f : Flag} (hf : f ≠ .cmdErr)
    (b : Bool) : putFlag (rejectStatus v cause) f b = rejectStatus (putFlag v f b) cause := by
  have hpos : f.pos ≠ 2 := fun h => hf ((Flag.pos_injective f .cmdErr).1 h)
  have hle := f.pos_le
  apply BitVec.eq_of_getLsbD_eq
  intro j _
  rw [getLsbD_putFlag, getLsbD_rejectStatus, getLsbD_rejectStatus, getLsbD_putFlag]
  by_cases hj : j = f.pos
  · rw [if_pos hj, if_neg (by omega), if_neg (by omega), if_pos hj]
  · rw [if_neg hj, if_neg hj]

section
variable {w : Width} (cause : CmdError)

theorem finishStatus_rejectStatus (v : Word w.bits) :
    finishStatus (rejectStatus v cause) = rejectStatus (finishStatus v) cause := by
  simp [finishStatus, putFlag_rejectStatus]

theorem configStatus_rejectStatus (v : Word w.bits) (f : CfgFlags) :
    configStatus (rejectStatus v cause) f = rejectStatus (configStatus v f) cause := by
  simp [configStatus, putFlag_rejectStatus]

/-- No command's own completion reads or writes CMD_ERR and ERRCODE. -/
theorem commitOf_reject (c : Command) (e : Engine w.bits) :
    commitOf c (e.reject cause) = (commitOf c e).reject cause := by
  cases c with
  | nop => simp [commitOf, Engine.nopComplete, Engine.reject, putFlag_rejectStatus]
  | config => simp [commitOf, Engine.configComplete, Engine.reject, configStatus_rejectStatus]
  | mul =>
    simp [commitOf, Engine.mulComplete, Engine.reject, Engine.reducer, Engine.flag_eq, putFlag_rejectStatus]
  | redc => simp [commitOf, Engine.redcComplete, Engine.reject, Engine.reducer, putFlag_rejectStatus]

theorem commitOf_finish_reject (c : Command) (e : Engine w.bits) :
    (commitOf c (e.reject cause)).finish = (commitOf c e).finish.reject cause := by
  rw [commitOf_reject]
  simp [Engine.finish, Engine.reject, finishStatus_rejectStatus]

end

/-- In its turn a BUSY engine completes the accepted command. -/
theorem exec_accepted {s : State} (hp : s.engine.phase = .busy) :
    exec s.engine.snap.op.toInstr { s with agent := .engine } =
      .next { s with engine := (commitOf s.engine.snap.op s.engine).finish, agent := .engine } :=
  exec_completing (s := { s with agent := .engine }) ⟨rfl, hp, rfl⟩

/-- Settles O19: the write is a rejection, and the completion after it is the rejection after the completion
(`commitOf_finish_reject`). -/
theorem busyRejectionLeavesTheRunningCommand : Obligations.BusyRejectionLeavesTheRunningCommand := by
  intro s v hb
  refine ⟨rejectStatus s.engine.status .busy, exec_request_of_eq (Engine.commandRequest_of_busy hb _),
    getLsbD_rejectStatus_of_code _ rfl, fun hp => ?_⟩
  refine ⟨(commitOf s.engine.snap.op s.engine).finish,
    rejectStatus (commitOf s.engine.snap.op s.engine).finish.status .busy, exec_accepted hp, ?_, fun i hi => ?_⟩
  · refine (exec_accepted (s := { s with engine := s.engine.reject .busy }) hp).trans ?_
    rw [Engine.reject_snap, commitOf_finish_reject]
    rfl
  · obtain ⟨h2, hcode⟩ := not_or.1 hi
    rw [getLsbD_rejectStatus, if_neg hcode, if_neg h2]

/-! ## No step faults or is refused (60_exceptions.md R200) -/

/-- Every arm of `exec` answers a next state. -/
theorem exec_exists_next (i : Instr) (s : State) : ∃ t, exec i s = .next t := by
  cases i with
  | nop => exact ⟨_, exec_command .nop s⟩
  | config => exact ⟨_, exec_command .config s⟩
  | mul => exact ⟨_, exec_command .mul s⟩
  | redc => exact ⟨_, exec_command .redc s⟩
  | portRead reg => exact ⟨_, exec_portRead reg s⟩
  | portWrite reg v => exact ⟨_, exec_portWrite reg v s⟩

/-- Settles O10: a step settles or runs one instruction. -/
theorem everyStepHasANextState : Obligations.EveryStepHasANextState := by
  refine ⟨exec_exists_next, fun s => ?_⟩
  cases hf : s.fetch with
  | run i t => rw [step_run hf]; exact exec_exists_next i t
  | settled t => exact ⟨t, step_settled hf⟩

end Sys2Proof.Machine

namespace Sys2Proof.Machine

/-! ## A run, step by step -/

theorem run_succ {s t : State} (h : step s = .next t) (k : Nat) : run (k + 1) s = run k t := by
  simp only [run, h]

theorem run_one {s t : State} (h : step s = .next t) : run 1 s = .next t := run_succ h 0

theorem run_two {s t u : State} (h : step s = .next t) (h' : step t = .next u) : run 2 s = .next u :=
  (run_succ h 1).trans (run_one h')

/-! ## Reset (70_reset_and_hazards.md R230, R231) -/

/-- After reset every register but PARAMS reads 0, those without storage too (70_reset_and_hazards.md R230). -/
theorem readReg_resetInput {w : Nat} (e : Engine w) {reg : Reg} (h : reg ≠ .params) :
    e.resetInput.readReg reg = 0 := by
  cases reg
  case params => exact absurd rfl h
  all_goals rfl

/-- PARAMS reads the width of the build in every state (40_host_port.md R100). -/
theorem value_params (s : State) : s.value .params = s.width.bits :=
  (BitVec.toNat_ofNat _ _).trans (Nat.mod_eq_of_lt Nat.lt_two_pow_self)

theorem value_of_resetInput {t : State} {e : Engine t.width.bits} (ht : t.engine = e.resetInput) {reg : Reg}
    (h : reg ≠ .params) : t.value reg = 0 := by
  rw [State.value, ht, readReg_resetInput e h]
  rfl

/-- Settles O42, with the next state of a reset step (`step_reset`). -/
theorem resetClearsEveryRegister : Obligations.ResetClearsEveryRegister := fun _ _ hs =>
  ⟨_, step_reset hs, rfl, rfl, value_params _, fun _ => value_of_resetInput rfl⟩

/-- A completion step after a reset step finds the phase IDLE and does nothing, whatever ran before
(70_reset_and_hazards.md R231). -/
theorem run_reset_complete {s : State} {rest : List (Event s.width.bits)}
    (hs : s.stream = .reset :: .complete :: rest) :
    run 2 s = .next { s with engine := s.engine.resetInput, stream := rest, reply := none } :=
  run_two (step_reset hs) (step_complete_idle rfl rfl)

/-! ## What a transaction can do -/

/-- A transaction stores to a register, makes a request or leaves the engine as it is, and touches neither the steps
still to come nor the agent. -/
theorem exec_decodePort_cases {w : Nat} (t : PortWord w) (s : State) :
    ∃ (e : Engine s.width.bits) (reply : Option (Word s.width.bits)),
      exec (decodePort t) s = .next { s with engine := e, reply := reply } ∧
      (e = s.engine ∨ (∃ reg v, e = s.engine.storeReg reg v) ∨ ∃ v, e = s.engine.commandRequest v) := by
  obtain ⟨reg, hd⟩ | ⟨reg, v, hd⟩ := decodePort_cases t
  · exact ⟨_, _, by rw [hd, exec_portRead], .inl rfl⟩
  · refine ⟨_, _, by rw [hd, exec_portWrite], ?_⟩
    by_cases hreg : reg = .cmd
    · exact .inr (.inr ⟨_, if_pos hreg⟩)
    · exact .inr (.inl ⟨_, _, if_neg hreg⟩)

/-- Settles O43: reset and the completion step after it lead to the same registers from every state, whether a command
ran in it (first clause) or a transaction has just led to it (second clause). -/
theorem resetAbandonsTheRunningCommand : Obligations.ResetAbandonsTheRunningCommand := by
  constructor
  · intro s rest _ hs
    exact ⟨_, run_reset_complete hs, rfl, s.engine.resetInput_flag _, fun _ => value_of_resetInput rfl⟩
  · intro s h w rest hs
    obtain ⟨e, reply, hexec, -⟩ :=
      exec_decodePort_cases w { s with stream := .reset :: .complete :: rest, agent := .host h, reply := none }
    exact ⟨_, (run_succ ((step_port hs).trans hexec) 2).trans (run_reset_complete rfl), rfl,
      Engine.resetInput_flag e _, fun _ => value_of_resetInput rfl⟩

/-! ## The running command (70_reset_and_hazards.md R235, R239) -/

/-- The engine is BUSY, in its phase and in STATUS, with the command `p`. -/
structure Engine.Runs {w : Nat} (e : Engine w) (p : Snapshot w) : Prop where
  phase : e.phase = .busy
  busy : e.flag .busy = true
  snap : e.snap = p

/-- The engine has completed the command `p`; that the snapshot still holds it is the model's choice (log 9). -/
structure Engine.HasCompleted {w : Nat} (e : Engine w) (p : Snapshot w) : Prop where
  phase : e.phase = .idle
  snap : e.snap = p
  busy : e.flag .busy = false
  done : e.flag .done = true

section
variable {w : Width} {e : Engine w.bits} {p : Snapshot w.bits}

theorem Engine.Runs.storeReg (h : e.Runs p) (reg : Reg) (v : Word w.bits) : (e.storeReg reg v).Runs p := by
  rw [Engine.storeReg_eq]
  exact ⟨h.phase, h.busy, h.snap⟩

/-- A request leaves the running command alone, because it is rejected (60_exceptions.md R202). -/
theorem Engine.Runs.commandRequest (h : e.Runs p) (v : Word w.bits) : (e.commandRequest v).Runs p := by
  rw [Engine.commandRequest_of_busy h.busy]
  exact ⟨h.phase, by simpa using h.busy, h.snap⟩

theorem Engine.Runs.complete (h : e.Runs p) : (commitOf e.snap.op e).finish.HasCompleted p where
  phase := rfl
  snap := (commitOf_snap _ e).trans h.snap
  busy := by simp
  done := by simp

end

/-- Whatever a host does, the running command runs on (60_exceptions.md R202). -/
theorem exec_decodePort_runs {w : Nat} (t : PortWord w) {s : State} {p : Snapshot s.width.bits}
    (h : s.engine.Runs p) :
    ∃ (e : Engine s.width.bits) (reply : Option (Word s.width.bits)),
      exec (decodePort t) s = .next { s with engine := e, reply := reply } ∧ e.Runs p := by
  obtain ⟨e, reply, hexec, he⟩ := exec_decodePort_cases t s
  refine ⟨e, reply, hexec, ?_⟩
  obtain rfl | ⟨reg, v, rfl⟩ | ⟨v, rfl⟩ := he
  · exact h
  · exact h.storeReg reg v
  · exact h.commandRequest v

/-- By induction on the steps to come: a transaction lets the command run on, and a completion step or the end of the
stream completes it. -/
theorem run_completes {w : Width} {p : Snapshot w.bits} (stream : List (Event w.bits)) (hreset : .reset ∉ stream)
    {e : Engine w.bits} (he : e.Runs p) (who : Agent) (reply : Option (Word w.bits)) :
    ∃ (k : Nat) (e' : Engine w.bits) (rest : List (Event w.bits)), k ≤ stream.length + 1 ∧
      run k ⟨w, e, stream, who, reply⟩ = .next ⟨w, e', rest, .engine, none⟩ ∧ e'.HasCompleted p := by
  induction stream generalizing e who reply with
  | nil => exact ⟨1, _, _, Nat.le_refl _, run_one (step_empty_busy rfl he.phase), he.complete⟩
  | cons ev rest ih =>
    obtain ⟨hev, hrest⟩ := List.ne_and_not_mem_of_not_mem_cons hreset
    cases ev with
    | port h t =>
      obtain ⟨e₁, reply₁, hexec, he₁⟩ := exec_decodePort_runs t (s := ⟨w, e, rest, .host h, none⟩) he
      obtain ⟨k, e', rest', hk, hrun, hdone⟩ := ih hrest he₁ (.host h) reply₁
      have hstep : step ⟨w, e, .port h t :: rest, who, reply⟩ = .next ⟨w, e₁, rest, .host h, reply₁⟩ :=
        (step_port rfl).trans hexec
      exact ⟨k + 1, e', rest', Nat.succ_le_succ hk, (run_succ hstep k).trans hrun, hdone⟩
    | complete =>
      exact ⟨1, _, rest, Nat.le_add_left .., run_one (step_complete_busy rfl he.phase), he.complete⟩
    | reset => exact absurd rfl hev

/-- Settles O48 (`run_completes`). -/
theorem acceptedCommandCompletes : Obligations.AcceptedCommandCompletes := by
  intro s hp hb hreset
  obtain ⟨k, e, rest, hk, hrun, hdone⟩ := run_completes s.stream hreset ⟨hp, hb, rfl⟩ s.agent s.reply
  exact ⟨k, e, rest, hk, hrun, hdone.phase, hdone.snap, hdone.busy, hdone.done⟩

/-! ## A command written while another runs (70_reset_and_hazards.md R235) -/

/-- A host's transaction of a command is the request of its word. -/
theorem step_port_command {s : State} {h : Nat} {c : Command} {rest : List (Event s.width.bits)}
    (hs : s.stream = .port h (portForm s.width c.toInstr) :: rest) :
    step s = .next { s with
      engine := s.engine.commandRequest (c.word s.width.bits)
      stream := rest
      agent := .host h
      reply := none } := by
  rw [step_port hs, decodePort_portForm_toInstr, exec_portWrite_cmd_opcode c rfl]
  exact exec_command_host c _ h rfl

/-- No completion clears CFG_VALID (10_state.md R27). -/
theorem commitOf_cfgValid {w : Width} (c : Command) {e : Engine w.bits} (h : e.flag .cfgValid = true) :
    (commitOf c e).flag .cfgValid = true := by
  by_cases hc : c = .config
  · simp [hc, commitOf]
  · rw [commitOf_flag e hc (by decide), h]

/-- Settles O49: before the completion the request is a rejection, which the completion leaves in CMD_ERR and ERRCODE;
after it the engine is no longer BUSY and accepts. -/
theorem commandWhileBusyHasBothOutcomes : Obligations.CommandWhileBusyHasBothOutcomes := by
  intro s h c hp hb hc
  constructor
  · have hreq : s.engine.commandRequest (c.word s.width.bits) = s.engine.reject .busy :=
      Engine.commandRequest_of_busy hb _
    have hphase : (s.engine.commandRequest (c.word s.width.bits)).phase = .busy := by rw [hreq]; exact hp
    refine ⟨_, run_two (step_port_command rfl) (step_complete_busy rfl hphase), rfl, ?_⟩
    simp [hreq, commitOf_flag_of_control, errorCode]
  · have hacc := (commitOf s.engine.snap.op s.engine).finish.commandRequest_accept c (by simp) fun hn => by
      simpa using commitOf_cfgValid _ (hc ((needsConfig_iff c).1 hn))
    refine ⟨_, run_two (step_complete_busy rfl hp) (step_port_command rfl), ?_⟩
    simp [hacc]

end Sys2Proof.Machine
